-- ==== Sys2Proof/Word.lean ====
section
/-! DEFINITION. The word types of the HZIP engine (00_scope.md R7, R8, R9). -/

namespace Sys2Proof

/-- A symbol, and the unit of system memory (R7 `NSYM`, R62). -/
abbrev Byte := BitVec 8

/-- A host register, a command word, a memory-port address (R7 `REG_W`, `ADDR_W`). -/
abbrev Word := BitVec 64

/-- A bit string, written left to right in the order its bits are produced (R9): a code, the decoder's accumulator,
a packed stream before packing. -/
abbrev Bits := List Bool

end Sys2Proof
end

