-- ==== Sys2Proof/Syntax.lean ====
section
/-! DEFINITION. The instruction set: the eleven commands of 30_encoding.md R81, one constructor per row of
spec/opcode_table.json. Commands carry no immediate and no register field (R83), so no constructor has an argument. -/

namespace Sys2Proof

/-- The commands of R81. Their operands are the configuration registers latched at issue and the internal tables. -/
inductive Instr
  | nop          -- R183
  | count        -- R111
  | buildTree    -- R121
  | buildTable   -- R131
  | encode       -- R141
  | decode       -- R151
  | serialize    -- R161
  | deserialize  -- R167
  | compress     -- R181
  | decompress   -- R182
  | clear        -- R184
deriving DecidableEq, Repr

end Sys2Proof
end

