-- ==== Sys2Proof/WellFormed.lean ====
section
/-! DEFINITION. When a command is well formed. A constructor of `Instr` has no field that could be out of range, so
every `Instr` is well formed; what can be ill formed is a command word, taken apart into the two fields of its one
format CMD64 (30_encoding.md R80). -/

namespace Sys2Proof

/-- A command word as its fields (R80): OP = bits 7:0, RSV = bits 63:8. -/
structure CmdFields where
  op  : Byte
  rsv : BitVec 56
deriving DecidableEq, Repr

/-- The fields of a word (R80). -/
def CmdFields.ofWord (w : Word) : CmdFields := { op := w.extractLsb' 0 8, rsv := w.extractLsb' 8 56 }

/-- The word of two fields (R80). -/
def CmdFields.toWord (f : CmdFields) : Word := f.rsv ++ f.op

/-- The reserved field must be 0 (R80, R82). -/
def CmdFields.rsvOk (f : CmdFields) : Bool := f.rsv == 0#56

/-- The operation selector must be one of the opcode map's (R81, R82). -/
def CmdFields.opOk (f : CmdFields) : Bool := f.op.toNat ≤ 0x0A

/-- A command word selects an operation exactly when both checks hold (R82). -/
def CmdFields.wellFormed (f : CmdFields) : Bool := f.rsvOk && f.opOk

/-- Every command is well formed: it has no operand field (R83). -/
def Instr.wellFormed : Instr → Bool
  | .nop | .count | .buildTree | .buildTable | .encode | .decode | .serialize | .deserialize | .compress
  | .decompress | .clear => true

end Sys2Proof
end

