-- ==== Sys2Proof/Decode.lean ====
section
/-! DEFINITION. Decoding and encoding a command word (30_encoding.md R80-R82). Every 64-bit word is decoded; a word
that selects no operation is rejected by name. -/

namespace Sys2Proof

/-- Why a command word selects no operation (R82). Whichever it is, the command completes with BAD_COMMAND. -/
inductive Reject
  | reservedBits   -- w[63:8] is not 0
  | unknownOpcode  -- w[7:0] is in 0x0B..0xFF
deriving DecidableEq, Repr

/-- The opcode map (R81). -/
def opcode : Instr → Byte
  | .nop         => 0x00#8
  | .count       => 0x01#8
  | .buildTree   => 0x02#8
  | .buildTable  => 0x03#8
  | .encode      => 0x04#8
  | .decode      => 0x05#8
  | .serialize   => 0x06#8
  | .deserialize => 0x07#8
  | .compress    => 0x08#8
  | .decompress  => 0x09#8
  | .clear       => 0x0A#8

/-- The operation an opcode selects (R81), or none for the reserved opcodes 0x0B..0xFF (R82). -/
def instrOfOp (op : Byte) : Option Instr :=
  match op.toNat with
  | 0x00 => some .nop
  | 0x01 => some .count
  | 0x02 => some .buildTree
  | 0x03 => some .buildTable
  | 0x04 => some .encode
  | 0x05 => some .decode
  | 0x06 => some .serialize
  | 0x07 => some .deserialize
  | 0x08 => some .compress
  | 0x09 => some .decompress
  | 0x0A => some .clear
  | _    => none

/-- Decode the two fields of a command word (R81, R82). -/
def decodeFields (f : CmdFields) : Except Reject Instr :=
  if f.rsv = 0#56 then
    match instrOfOp f.op with
    | some i => .ok i
    | none   => .error .unknownOpcode
  else .error .reservedBits

/-- Decode a command word, the data of a write to CMD (R80-R82). -/
def decode (w : Word) : Except Reject Instr := decodeFields (.ofWord w)

/-- The command word of an instruction: OP as in R81, RSV = 0 (R80). -/
def encode (i : Instr) : Word := CmdFields.toWord { op := opcode i, rsv := 0#56 }

/-- The 64-bit command word whose bits are the low `nbits` bits of `w`, the bits above them 0. A command is one
64-bit register write (R80), so nothing is laid out in bytes. -/
def tableWord (nbits w : Nat) : Word := BitVec.ofNat 64 (w % 2 ^ nbits)

/-- The instruction the decoder reads from a word of the opcode table. -/
def decodeTableWord (nbits w : Nat) : Option Instr :=
  match decode (tableWord nbits w) with
  | .ok i    => some i
  | .error _ => none

end Sys2Proof
end

