-- ==== Sys2Proof/Config.lean ====
section
/-! DEFINITION. What this hardware fixes (00_scope.md R7), and the free values: what the spec lets be "any value". -/

namespace Sys2Proof.Config

/-- `MAX_LEN`, the largest SRC_LEN or DST_CAP a command accepts (R7, decision D15). -/
abbrev maxLen : Nat := 2 ^ 56 - 1

/-- `MAX_CODE_LEN`, the longest code stored, in bits (R7, R124, decision D32). -/
abbrev maxCodeLen : Nat := 255

/-- `MAX_NODES`, the size of the tree arena (R7, R45). -/
abbrev maxNodes : Nat := 511

/-- The number of bytes of system memory, and of the values of a register (R60). -/
abbrev addrSpace : Nat := 2 ^ 64

/-- The size in bytes of the register file (R23: offsets 0x0000-0x3FFF). -/
abbrev regSpace : Nat := 0x4000

/-- `HW_ID` (R2, R7, R24, decision D33). -/
def hwId : Word := 0x0000000750495A48#64

/-- What a byte of system memory that nothing has written reads as: DESIGN CHOICE, the spec gives system memory no
contents (log entry 1, unsafe). -/
abbrev blankByte : Byte := 0#8

/-- A free byte: "any value (a model draws it)" of R72 (b), R205 (c) and R231. No body, so no proof can see it; the
n-th draw of a run is `freeByte n`. -/
opaque freeByte : Nat → Byte

/-- A free word: "any value" of R53 for a window or summary register read while BUSY, and the data of a bus read
that the block is not selected for (log entry 9). -/
opaque freeWord : Nat → Word

end Sys2Proof.Config
end

