-- ==== Sys2Proof/Machine/State.lean ====
section
/-! DEFINITION. The state of the machine as plain data (10_state.md R20-R54): the register file, the internal tables
and their validity flags, the engine's phase, system memory; and beside them what stands outside the block and acts on
it: the platform's parameters, the host's coming bus operations, what the host has seen. -/

namespace Sys2Proof.Machine

/-- The completion codes (60_exceptions.md R200); their numbers are `Code.toByte`. -/
inductive Code
  | ok | emptyInput
  | ioError | missingCode | truncatedFile | malformedTable | malformedStream
  | badCommand | badArgument | sequenceError | capacityExceeded
deriving DecidableEq, Repr

/-- `raise CODE(addr, info)` (R10): what ends a command, with its address and information word as exact numbers. -/
structure Raise where
  code : Code
  addr : Nat
  info : Nat
deriving DecidableEq, Repr

/-- The direction of a memory-port access (R61). -/
inductive Dir
  | read | write
deriving DecidableEq, Repr

/-- A node of the tree arena (R45): children are node indices. -/
inductive Node
  | leaf (sym : Byte)
  | internal (left right : Nat)
deriving DecidableEq, Repr

/-- An entry of the decoding table (R47); `DT[i].len` is the length of `code`. -/
structure DtEntry where
  sym  : Byte
  code : Bits
deriving DecidableEq, Repr

/-- The five configuration registers (R29-R33), which are also what a command latches at issue (R50). -/
structure Operands where
  srcAddr : Word
  srcLen  : Word
  dstAddr : Word
  dstCap  : Word
  origLen : Word
deriving DecidableEq, Repr

/-- The latched command and its latched operands (R50). -/
structure Latched where
  word : Word
  ops  : Operands
deriving DecidableEq, Repr

/-- The read-only result registers (R34-R38). -/
structure Results where
  resultLen   : Word
  payloadBits : Word
  tableSegLen : Word
  payloadAddr : Word
  payloadLen  : Word
  errAddr     : Word
  errInfo     : Word
deriving DecidableEq, Repr

/-- The validity flags, STATUS bits 4 to 7 (R26, R48). -/
structure Flags where
  freqValid   : Bool
  treeValid   : Bool
  etableValid : Bool
  dtableValid : Bool
deriving DecidableEq, Repr

/-- A table with one entry per symbol (R44, R46). -/
abbrev Table (α : Type) := Vector α 256

/-- The internal tables (R44-R47). `nodes` is NODE[0 .. NNODES-1], so NNODES is its length; `codes` is CODE, and
CLEN[s] is the length of CODE[s], so a symbol without a code has the empty code; `dt` is DT[0 .. DTN-1]. -/
structure Tables where
  freq  : Table Word
  nodes : List Node
  root  : Nat
  codes : Table Bits
  dt    : List DtEntry
deriving DecidableEq, Repr

/-- Addresses `base ≤ a < base + size` at which the platform completes no access in direction `dir`. -/
structure BusFault where
  dir  : Dir
  base : Nat
  size : Nat
deriving DecidableEq, Repr

/-- The platform's parameters (R7, R61): `REG_BASE`, and `BUS_OK` given by the accesses it makes fail. Every predicate
on the finite space of accesses is such a list, so a claim about every state is a claim about every platform. -/
structure Platform where
  regBase   : Word
  busFaults : List BusFault
deriving DecidableEq, Repr

/-- System memory (R60 (b)): (address, byte) pairs, addresses rising, none of them blank (`Memory.wf`). -/
abbrev Memory := List Host.Cell

/-- What happens next outside the engine, one entry a step: the host's operations (R13, R84), the platform's, and
`engine`, which lets the engine finish the command in flight before the host's next operation (R14, R241: any number
of host steps may pass between issue and completion; log entry 5). -/
inductive Input
  | engine
  | busWrite (addr : Word) (bytes : Nat) (v : Word)
  | busRead  (addr : Word) (bytes : Nat)
  | memWrite (addr : Word) (v : Byte)
  | memRead  (addr : Word)
  | reset
  | busMap   (faults : List BusFault)
deriving DecidableEq, Repr

/-- The machine. -/
structure State where
  /-- CTRL.IRQ_EN (R28). -/
  irqEn    : Bool
  /-- SRC_ADDR, SRC_LEN, DST_ADDR, DST_CAP, ORIG_LEN (R29-R33). -/
  cfg      : Operands
  /-- RESULT_LEN, PAYLOAD_BITS, TABLE_SEG_LEN, PAYLOAD_ADDR, PAYLOAD_LEN, ERR_ADDR, ERR_INFO (R34-R38). -/
  res      : Results
  /-- STATUS.DONE (R26). -/
  done     : Bool
  /-- STATUS.DROP (R26). -/
  drop     : Bool
  /-- STATUS.FREQ_VALID, TREE_VALID, ETABLE_VALID, DTABLE_VALID (R26, R48). -/
  flags    : Flags
  /-- STATUS.CODE (R26, R200). -/
  code     : Code
  /-- STATUS.LAST_OP (R26). -/
  lastOp   : Byte
  /-- The engine's phase: idle, or busy with a latched command (R20 (d), R50); STATUS.BUSY is whether it is busy. -/
  engine   : Option Latched
  /-- The internal tables (R20 (b)). -/
  tables   : Tables
  /-- System memory (R60 (b)). -/
  mem      : Memory
  /-- The platform's parameters; no state of the block. -/
  platform : Platform
  /-- What the host and the platform do next, first one first; no state of the block. -/
  inputs   : List Input
  /-- The data of the host's last read (the temporary `t` of R84); no state of the block. -/
  hostData : Word
  /-- Commands that have completed since the host last read STATUS with BUSY = 0 (R71 (b), R236; log entry 7);
  no state of the block. -/
  unseen   : List Latched
  /-- The model's own: how many free values have been drawn (log entry 11). -/
  draws    : Nat
deriving DecidableEq, Repr

/-- Why the machine stops with a fault. -/
inductive Fault
  /-- Raised by a host write to a byte of the source or destination range of a command in flight, or of one whose
  completion the host has not seen in STATUS (R72 (a), R215 (a), R236). Safe: the spec gives the write no meaning. -/
  | bufferRace
deriving DecidableEq, Repr

/-- Why a step has no meaning. -/
inductive Refusal
  /-- Raised by exec's arm of an instruction without a meaning; no arm of this model does. Safe. -/
  | notModelled (mnemonic : String)
  /-- Raised by a register access that is not 64 bits wide or not at a multiple of 8 (R65, R215 (b),
  93_implementation_defined.md U7; log entry 12). Safe: the spec gives the access no meaning. -/
  | refusedAccess
deriving DecidableEq, Repr

/-- The three outcomes of a step of this machine. -/
abbrev Result := Host.Outcome State Fault Refusal

/-- All configuration registers 0 (R54). -/
def Operands.zero : Operands := { srcAddr := 0#64, srcLen := 0#64, dstAddr := 0#64, dstCap := 0#64, origLen := 0#64 }

/-- All result registers 0 (R54). -/
def Results.zero : Results :=
  { resultLen := 0#64, payloadBits := 0#64, tableSegLen := 0#64, payloadAddr := 0#64, payloadLen := 0#64,
    errAddr := 0#64, errInfo := 0#64 }

/-- No table valid (R48, R54). -/
def Flags.cleared : Flags := { freqValid := false, treeValid := false, etableValid := false, dtableValid := false }

/-- FREQ all 0 (R54). The tree arena, the code table and the decoding table are unspecified after reset and
unobservable (R54, U5); the model makes them empty: DESIGN CHOICE, log entry 2. -/
def Tables.blank : Tables :=
  { freq := Vector.replicate 256 0#64, nodes := [], root := 0, codes := Vector.replicate 256 [], dt := [] }

/-- The machine right after reset (R54, R230). The block's state is the spec's; memory lists nothing (log entry 1);
the platform's parameters and the host's side are the model's own (log entry 3). -/
def State.reset : State :=
  { irqEn := false, cfg := .zero, res := .zero, done := false, drop := false, flags := .cleared, code := .ok,
    lastOp := 0#8, engine := none, tables := .blank, mem := [],
    platform := { regBase := 0#64, busFaults := [] }, inputs := [], hostData := 0#64, unseen := [], draws := 0 }

end Sys2Proof.Machine
end

