-- ==== Sys2Proof/Machine/Ops.lean ====
section
/-! DEFINITION. The shared operations: tables, system memory, the memory port, byte and bit order, and the one way a
command ends, completion (10_state.md R52, 60_exceptions.md R202: "this block's only trap"). -/

namespace Sys2Proof.Machine

/-! ### Tables with one entry per symbol -/

/-- The entry of symbol `b`. -/
def Table.at {α : Type} (t : Table α) (b : Byte) : α := t[b.toNat]'(b.isLt)

/-- The table with the entry of symbol `b` set to `v`. -/
def Table.put {α : Type} (t : Table α) (b : Byte) (v : α) : Table α := t.set b.toNat v b.isLt

/-- The symbols 0 .. 255 in increasing order. -/
def allBytes : List Byte := (List.range 256).map (BitVec.ofNat 8)

/-- A table's entries beside their symbols, in increasing order of symbol. -/
def Table.entries {α : Type} (t : Table α) : List (Byte × α) := allBytes.zip t.toList

/-! ### System memory (R60 (b), R62) -/

/-- The canonical form: addresses strictly rising and below 2^64, no listed byte equal to what an unlisted address
reads as. -/
abbrev Memory.wf (m : Memory) : Prop :=
  m.Pairwise (fun c d => c.1 < d.1) ∧ ∀ c ∈ m, c.2 ≠ Config.blankByte ∧ c.1 < Config.addrSpace

/-- Read one byte (R62). -/
def Memory.read : Memory → Nat → Byte
  | [], _ => Config.blankByte
  | (k, w) :: m, a => if k = a then w else Memory.read m a

/-- Write one byte, keeping the canonical form (R62). -/
def Memory.write : Memory → Nat → Byte → Memory
  | [], a, v => if v = Config.blankByte then [] else [(a, v)]
  | (k, w) :: m, a, v =>
    if a < k then (if v = Config.blankByte then (k, w) :: m else (a, v) :: (k, w) :: m)
    else if a = k then (if v = Config.blankByte then m else (a, v) :: m)
    else (k, w) :: Memory.write m a v

/-- Write a byte string upward from `a`. -/
def Memory.writeAll : Memory → Nat → List Byte → Memory
  | m, _, []      => m
  | m, a, v :: vs => Memory.writeAll (m.write a v) (a + 1) vs

/-- The `n` bytes from `a` upward. -/
def Memory.bytes (m : Memory) (a n : Nat) : List Byte := (List.range n).map fun i => m.read (a + i)

/-- The bytes of [base, base + n), but those `keep` holds of, become free values: the draws `seed`, `seed + 1`, ...
(R205 (c), R231: "any value"). An address past the top is taken modulo 2^64 (log entry 8). -/
def Memory.scramble (m : Memory) (keep : Nat → Bool) (base seed : Nat) : Nat → Memory
  | 0     => m
  | n + 1 =>
    let m' := Memory.scramble m keep base seed n
    let a := (base + n) % Config.addrSpace
    if keep a then m' else m'.write a (Config.freeByte (seed + n))

/-! ### The memory port (R10, R61, R62): one byte an access, and a failing access raises IO_ERROR at its address -/

/-- `BUS_OK(addr, dir)` (R61). -/
def Platform.busOk (p : Platform) (a : Nat) (d : Dir) : Bool :=
  !(p.busFaults.any fun f => f.dir == d && decide (f.base ≤ a) && decide (a < f.base + f.size))

/-- `MemRead(addr, 1)` (R10). -/
def portRead (p : Platform) (m : Memory) (a : Nat) : Except Raise Byte :=
  if p.busOk a .read then .ok (m.read a) else .error ⟨.ioError, a, 0⟩

/-- `MemWrite(addr, 1, v)` (R10). -/
def portWrite (p : Platform) (m : Memory) (a : Nat) (v : Byte) : Except Raise Memory :=
  if p.busOk a .write then .ok (m.write a v) else .error ⟨.ioError, a, 1⟩

/-- Read `n` bytes in ascending order (R68), stopping at the first access that fails (R209). -/
def portReadBytes (p : Platform) (m : Memory) : Nat → Nat → Except Raise (List Byte)
  | _, 0     => .ok []
  | a, n + 1 =>
    match portRead p m a with
    | .error e => .error e
    | .ok b =>
      match portReadBytes p m (a + 1) n with
      | .error e => .error e
      | .ok bs   => .ok (b :: bs)

/-- Write a byte string in ascending order (R68), stopping at the first access that fails (R209). -/
def portWriteBytes (p : Platform) : Memory → Nat → List Byte → Except Raise Memory
  | m, _, []      => .ok m
  | m, a, v :: vs =>
    match portWrite p m a v with
    | .error e => .error e
    | .ok m'   => portWriteBytes p m' (a + 1) vs

/-- Copy `n` bytes, reading and writing one after the other (R161). -/
def portCopy (p : Platform) : Memory → Nat → Nat → Nat → Except Raise Memory
  | m, _, _, 0       => .ok m
  | m, src, dst, n + 1 =>
    match portRead p m src with
    | .error e => .error e
    | .ok b =>
      match portWrite p m dst b with
      | .error e => .error e
      | .ok m'   => portCopy p m' (src + 1) (dst + 1) n

/-! ### Byte order and bit order (R10, R63, R64, R90) -/

/-- `ceil_div(a, b)` (R8). -/
def ceilDiv (a b : Nat) : Nat := (a + b - 1) / b

/-- `le64(v)`: the eight bytes of a word, least significant first (R10, R63). -/
def le64 (v : Word) : List Byte := (List.range 8).map fun i => v.extractLsb' (8 * i) 8

/-- `u64le`: the integer of a byte string, least significant byte first (R10, R63). -/
def u64le : List Byte → Nat
  | []      => 0
  | b :: bs => b.toNat + 256 * u64le bs

/-- Stream bit `k` of a payload byte: bit 7 - (k mod 8) (R64). -/
def streamBit (cur : Byte) (k : Nat) : Bool := cur.getLsbD (7 - k % 8)

/-- Payload byte `j` of a bit string: its bit 7 - i is stream bit 8j + i, and 0 past the end (R64, R90). -/
def packByte (s : Bits) (j : Nat) : Byte :=
  BitVec.ofNat 8 ((List.range 8).foldl (fun acc i => 2 * acc + (s.getD (8 * j + i) false).toNat) 0)

/-- `Pack(S)`: MSB-first, the last byte padded on the right with 0 bits (R90). -/
def pack (s : Bits) : List Byte := (List.range (ceilDiv s.length 8)).map (packByte s)

/-! ### Completion -/

/-- The operands of the command in flight: the values latched at issue (R50, R207). A command runs only while one is
latched; for the other states the meanings take the configuration registers (log entry 10). -/
def State.operands (s : State) : Operands :=
  match s.engine with
  | some c => c.ops
  | none   => s.cfg

/-- STATUS.BUSY (R26, R50). -/
def State.busy (s : State) : Bool := s.engine.isSome

/-- The completion transition (R52), after the stages' table, flag, memory and staged register writes: RESULT_LEN,
ERR_ADDR and ERR_INFO (both modulo 2^64, R203), CODE, BUSY <- 0, DONE <- 1. ERR follows CODE (R201). Until the host
reads STATUS with BUSY = 0 the command's ranges stay its own (R236, log entry 7). -/
def State.complete (s : State) (code : Code) (addr info len : Nat) : State :=
  { s with
    res := { s.res with
      resultLen := BitVec.ofNat 64 len, errAddr := BitVec.ofNat 64 addr, errInfo := BitVec.ofNat 64 info }
    code := code
    engine := none
    done := true
    unseen := s.engine.toList ++ s.unseen }

/-- `complete OK`, `len` bytes written to the destination range (R10, R34). -/
def State.finish (s : State) (len : Nat) : State := s.complete .ok 0 0 len

/-- `complete EMPTY_INPUT` (R10, R34). -/
def State.finishEmpty (s : State) : State := s.complete .emptyInput 0 0 0

/-- `raise CODE(addr, info)` where memory is left as it is: a pre-check error, or a command without a destination
range (R205). -/
def State.raise (s : State) (e : Raise) : State := s.complete e.code e.addr e.info 0

/-- Every byte of the destination range takes a free value (R205 (c); log entries 6 and 11). -/
def State.openDst (s : State) (o : Operands) : State :=
  { s with
    mem := s.mem.scramble (fun _ => false) o.dstAddr.toNat s.draws o.dstCap.toNat
    draws := s.draws + o.dstCap.toNat }

/-- `raise CODE(addr, info)` of a command with a destination range, after its pre-checks: every byte of the range is
any value (R205 (c)). -/
def State.raiseOpen (s : State) (o : Operands) (e : Raise) : State := (s.openDst o).raise e

end Sys2Proof.Machine
end

