-- ==== Sys2Proof/Machine/Flags.lean ====
section
/-! DEFINITION. The STATUS register's fields (10_state.md R26), the numbers of the completion codes (60_exceptions.md
R200), the validity flags (R48) and the interrupt output (R210). -/

namespace Sys2Proof.Machine

/-- The 8-bit value of a completion code in STATUS.CODE (R200). -/
def Code.toByte : Code → Byte
  | .ok               => 0x00#8
  | .emptyInput       => 0x01#8
  | .ioError          => 0x10#8
  | .missingCode      => 0x11#8
  | .truncatedFile    => 0x12#8
  | .malformedTable   => 0x13#8
  | .malformedStream  => 0x14#8
  | .badCommand       => 0x20#8
  | .badArgument      => 0x21#8
  | .sequenceError    => 0x22#8
  | .capacityExceeded => 0x23#8

/-- Error class: the code is at least 0x10 (R201). -/
def Code.isError (c : Code) : Bool := decide (0x10 ≤ c.toByte.toNat)

/-- STATUS.ERR (R26, R201). -/
def State.err (s : State) : Bool := s.code.isError

/-- The interrupt output: DONE and IRQ_EN, at all times (R210). -/
def State.irq (s : State) : Bool := s.done && s.irqEn

/-- A flag by its bit index in STATUS (R26): 4 FREQ_VALID, 5 TREE_VALID, 6 ETABLE_VALID, 7 DTABLE_VALID. -/
def Flags.bit (f : Flags) : Nat → Bool
  | 4 => f.freqValid
  | 5 => f.treeValid
  | 6 => f.etableValid
  | 7 => f.dtableValid
  | _ => false

/-- The word STATUS reads (R26): LAST_OP 23:16, CODE 15:8, the four flags 7:4, DROP, ERR, DONE, BUSY; the rest 0. -/
def State.statusWord (s : State) : Word :=
  0#40 ++ s.lastOp ++ s.code.toByte
    ++ BitVec.ofBool s.flags.dtableValid ++ BitVec.ofBool s.flags.etableValid
    ++ BitVec.ofBool s.flags.treeValid ++ BitVec.ofBool s.flags.freqValid
    ++ BitVec.ofBool s.drop ++ BitVec.ofBool s.err ++ BitVec.ofBool s.done ++ BitVec.ofBool s.busy

/-- The word CTRL reads: IRQ_EN in bit 0, the rest 0 (R28). -/
def State.ctrlWord (s : State) : Word := 0#63 ++ BitVec.ofBool s.irqEn

/-- A write to STATUS: 1 in bit 1 clears DONE, 1 in bit 3 clears DROP, no other bit acts (R27). -/
def State.writeStatus (s : State) (v : Word) : State :=
  { s with done := s.done && !v.getLsbD 1, drop := s.drop && !v.getLsbD 3 }

/-- A write to CTRL: bit 0 is IRQ_EN, the reserved bits ignore writes (R28). -/
def State.writeCtrl (s : State) (v : Word) : State := { s with irqEn := v.getLsbD 0 }

/-- A write dropped while BUSY: the register keeps its value, DROP is set (R51). -/
def State.dropWrite (s : State) : State := { s with drop := true }

/-- Issue: a write of `w` to CMD accepted while BUSY = 0 (R50). BUSY <- 1 is the command latched, ERR follows CODE. -/
def State.issue (s : State) (w : Word) : State :=
  { s with
    engine := some { word := w, ops := s.cfg }
    done := false
    code := .ok
    lastOp := w.extractLsb' 0 8 }

end Sys2Proof.Machine
end

