-- ==== Sys2Proof/Machine/Operands.lean ====
section
/-! DEFINITION. What a command's operands are (30_encoding.md R83), its address ranges (R12, R69), and the checks made
before a command runs (60_exceptions.md R207). -/

namespace Sys2Proof.Machine

/-- The command uses the source range (R83). -/
def usesSrc : Instr → Bool
  | .count | .encode | .decode | .serialize | .deserialize | .compress | .decompress => true
  | .nop | .buildTree | .buildTable | .clear => false

/-- The command uses the destination range (R83). -/
def usesDst : Instr → Bool
  | .encode | .decode | .serialize | .compress | .decompress => true
  | .nop | .count | .buildTree | .buildTable | .deserialize | .clear => false

/-- The flag the command needs, by its bit index in STATUS (R83, R203). -/
def needsFlag : Instr → Option Nat
  | .buildTree => some 4
  | .buildTable => some 5
  | .encode | .serialize => some 6
  | .decode => some 7
  | .nop | .count | .deserialize | .compress | .decompress | .clear => none

/-- `a` lies in the range [base, base + len); the part of a range past the top is taken modulo 2^64 (log entry 8). -/
def inRange (base len : Word) (a : Nat) : Bool :=
  decide (base.toNat ≤ a ∧ a < base.toNat + len.toNat) || decide (a + Config.addrSpace < base.toNat + len.toNat)

/-- Check 1 of R207: the source range. -/
def checkSrc (o : Operands) : Option Raise :=
  if o.srcLen.toNat > Config.maxLen then some ⟨.badArgument, 0, 1⟩
  else if o.srcAddr.toNat + o.srcLen.toNat > Config.addrSpace then some ⟨.badArgument, 0, 2⟩
  else none

/-- Check 2 of R207: the destination range. -/
def checkDst (o : Operands) : Option Raise :=
  if o.dstCap.toNat > Config.maxLen then some ⟨.badArgument, 0, 3⟩
  else if o.dstAddr.toNat + o.dstCap.toNat > Config.addrSpace then some ⟨.badArgument, 0, 4⟩
  else none

/-- Check 3 of R207: the ranges overlap. -/
def checkOverlap (o : Operands) : Option Raise :=
  if 0 < o.srcLen.toNat ∧ 0 < o.dstCap.toNat ∧ o.srcAddr.toNat < o.dstAddr.toNat + o.dstCap.toNat
      ∧ o.dstAddr.toNat < o.srcAddr.toNat + o.srcLen.toNat then some ⟨.badArgument, 0, 5⟩
  else none

/-- Check 4 of R207: the flag the command needs. -/
def checkFlag (i : Instr) (f : Flags) : Option Raise :=
  match needsFlag i with
  | none   => none
  | some k => if f.bit k then none else some ⟨.sequenceError, 0, k⟩

/-- The pre-checks of a command that selects an operation, in the order of R207: the first that fails. -/
def precheck (i : Instr) (f : Flags) (o : Operands) : Option Raise :=
  (if usesSrc i then checkSrc o else none).or
    ((if usesDst i then checkDst o else none).or
      ((if usesSrc i && usesDst i then checkOverlap o else none).or (checkFlag i f)))

/-- Run a command's rule after the pre-checks; a pre-check error changes no memory, table or flag (R205 (b), R207). -/
def checked (i : Instr) (s : State) (rule : Operands → State) : Result :=
  match precheck i s.flags s.operands with
  | some e => .next (s.raise e)
  | none   => .next (rule s.operands)

/-- The command in flight reads the byte at `a`: it uses a source range and `a` is in it (R12, R68, R83;
log entry 6). -/
def Latched.inSrc (c : Latched) (a : Nat) : Bool :=
  match decode c.word with
  | .ok i    => usesSrc i && inRange c.ops.srcAddr c.ops.srcLen a
  | .error _ => false

/-- The command in flight may write the byte at `a`: it uses a destination range and `a` is in it (R12, R68, R83;
log entry 6). -/
def Latched.inDst (c : Latched) (a : Nat) : Bool :=
  match decode c.word with
  | .ok i    => usesDst i && inRange c.ops.dstAddr c.ops.dstCap a
  | .error _ => false

/-- The commands whose ranges the host must leave alone: the one in flight (R72) and those whose completion it has not
seen in STATUS (R236). -/
def State.claims (s : State) : List Latched := s.engine.toList ++ s.unseen

/-- A host write to `a` is a race (R72 (a), R215 (a), R236). -/
def State.races (s : State) (a : Nat) : Bool := s.claims.any fun c => c.inSrc a || c.inDst a

/-- A host read of `a` returns any value: `a` is a destination byte (R72 (b), R236), and not also a source byte of the
same command, which the engine never writes (R72 (c); log entry 8). A source byte of the command in flight reads as
memory holds it (R72 (c)), also where a completed command the host has not seen has it as a destination byte (log entry
18). -/
def State.openRead (s : State) (a : Nat) : Bool :=
  !(s.engine.any fun c => c.inSrc a) && s.claims.any fun c => c.inDst a && !c.inSrc a

end Sys2Proof.Machine
end

