-- ==== Sys2Proof/Machine/CodeTable.lean ====
section
/-! DEFINITION. CodeTableBuilder: BUILD_TABLE (42_codetable.md). -/

namespace Sys2Proof.Machine

/-- The depth-first traversal of R130: 0 for the left child, 1 for the right, the path so far at a leaf. A path is
shorter than the arena (R45: children have lower indices than their node), so the arena's size bounds the depth. -/
def walkTree (nodes : List Node) : Nat → Nat → Bits → List (Byte × Bits)
  | 0, _, _ => []
  | depth + 1, i, path =>
    match nodes[i]? with
    | none                  => []
    | some (.leaf sym)      => [(sym, path)]
    | some (.internal l r)  =>
      walkTree nodes depth l (path ++ [false]) ++ walkTree nodes depth r (path ++ [true])

/-- The codes of a tree (R131): a single leaf has the code "0" (R132). -/
def treeCodes (nodes : List Node) (root : Nat) : List (Byte × Bits) :=
  if nodes.length = 1 then
    match nodes[root]? with
    | some (.leaf sym) => [(sym, [false])]
    | _                => []
  else walkTree nodes nodes.length root []

/-- The code table BUILD_TABLE leaves: no code, then the code of each leaf (R131). -/
def buildCodes (nodes : List Node) (root : Nat) : Table Bits :=
  (treeCodes nodes root).foldl (fun t e => t.put e.1 e.2) (Vector.replicate 256 [])

/-- The table and flag writes of a BUILD_TABLE stage (R48, R131). -/
def State.storeCodes (s : State) : State :=
  { s with
    tables := { s.tables with codes := buildCodes s.tables.nodes s.tables.root }
    flags := { s.flags with etableValid := true } }

/-- BUILD_TABLE (R131). -/
def execBuildTable (s : State) : Result :=
  checked .buildTable s fun _ => s.storeCodes.finish 0

end Sys2Proof.Machine
end

