-- ==== Sys2Proof/Machine/Decoder.lean ====
section
/-! DEFINITION. BitstreamDecoder: DECODE (44_decoder.md). -/

namespace Sys2Proof.Machine

/-- What a decoding works on: the payload range, the destination range and the number of bytes to produce (R151). -/
structure DecodeJob where
  src    : Nat
  srcLen : Nat
  dst    : Nat
  cap    : Nat
  orig   : Nat
deriving DecidableEq, Repr

/-- M, the longest code of the decoding table (R151), and DT_MAXLEN (R39); 0 for an empty table. -/
def longestCode (dt : List DtEntry) : Nat := dt.foldl (fun n e => max n e.code.length) 0

/-- The loop of R151. `left` counts the stream bits not yet consumed, so k + left = 8 * SRC_LEN; `cur` is the byte
the next bit is taken from, read when k is a multiple of 8; `acc` is the accumulator, `out` the bytes produced. The
first code that equals the accumulator is matched (R155). Bits and bytes past the last one needed are not read
(R152). -/
def decodeLoop (p : Platform) (dt : List DtEntry) (j : DecodeJob) :
    Nat → Nat → Byte → Bits → Nat → Memory → Except Raise Memory
  | 0, k, _, _, out, m =>
    if out < j.orig then .error ⟨.malformedStream, j.src + j.srcLen, k⟩ else .ok m
  | left + 1, k, cur, acc, out, m =>
    if out < j.orig then
      match (if k % 8 = 0 then portRead p m (j.src + k / 8) else .ok cur) with
      | .error e => .error e
      | .ok cur' =>
        match dt.find? (fun e => e.code == acc ++ [streamBit cur' k]) with
        | some e =>
          match portWrite p m (j.dst + out) e.sym with
          | .error e => .error e
          | .ok m'   => decodeLoop p dt j left (k + 1) cur' [] (out + 1) m'
        | none =>
          if (acc ++ [streamBit cur' k]).length = longestCode dt then
            .error ⟨.malformedStream, j.src + k / 8, k + 1⟩
          else decodeLoop p dt j left (k + 1) cur' (acc ++ [streamBit cur' k]) out m
    else .ok m

/-- DECODE's checks, then its loop (R151): the memory after its writes. -/
def decodeStream (p : Platform) (dt : List DtEntry) (j : DecodeJob) (m : Memory) : Except Raise Memory :=
  if j.orig > j.cap then .error ⟨.capacityExceeded, j.dst, j.orig⟩
  else if j.orig = 0 then .ok m
  else if dt = [] then .error ⟨.malformedStream, j.src, 0⟩
  else decodeLoop p dt j (8 * j.srcLen) 0 0#8 [] 0 m

/-- The job of a DECODE: its latched operands (R151). -/
def Operands.decodeJob (o : Operands) : DecodeJob :=
  { src := o.srcAddr.toNat, srcLen := o.srcLen.toNat, dst := o.dstAddr.toNat, cap := o.dstCap.toNat
    orig := o.origLen.toNat }

/-- The memory of a command that ends OK without staged registers. -/
def State.storeMem (s : State) (m : Memory) : State := { s with mem := m }

/-- DECODE (R151). -/
def execDecode (s : State) : Result :=
  checked .decode s fun o =>
    match decodeStream s.platform s.tables.dt o.decodeJob s.mem with
    | .ok m    => (s.storeMem m).finish o.origLen.toNat
    | .error e => s.raiseOpen o e

end Sys2Proof.Machine
end

