-- ==== Sys2Proof/Machine/Encoder.lean ====
section
/-! DEFINITION. BitstreamEncoder: ENCODE (43_encoder.md). -/

namespace Sys2Proof.Machine

/-- The reading loop of R141 over `n` bytes from `a`: the codes of the bytes in order. A byte whose read fails, or
that has no code, ends it; whichever comes first (R209). -/
def encodeLoop (p : Platform) (m : Memory) (codes : Table Bits) : Nat → Nat → Except Raise Bits
  | _, 0     => .ok []
  | a, n + 1 =>
    match portRead p m a with
    | .error e => .error e
    | .ok b =>
      if codes.at b = [] then .error ⟨.missingCode, a, b.toNat⟩
      else
        match encodeLoop p m codes (a + 1) n with
        | .error e => .error e
        | .ok bits => .ok (codes.at b ++ bits)

/-- ENCODE's reads, capacity check and writes (R141, R208): the bit string and the memory after the writes. -/
def encodeRange (s : State) (o : Operands) : Except Raise (Bits × Memory) :=
  match encodeLoop s.platform s.mem s.tables.codes o.srcAddr.toNat o.srcLen.toNat with
  | .error e => .error e
  | .ok bits =>
    if ceilDiv bits.length 8 > o.dstCap.toNat then
      .error ⟨.capacityExceeded, o.dstAddr.toNat, ceilDiv bits.length 8⟩
    else
      match portWriteBytes s.platform s.mem o.dstAddr.toNat (pack bits) with
      | .error e => .error e
      | .ok m    => .ok (bits, m)

/-- The memory and staged registers of an ENCODE that ends OK: ORIG_LEN and PAYLOAD_BITS (R141). -/
def State.storeEncoded (s : State) (o : Operands) (bits : Nat) (m : Memory) : State :=
  { s with
    mem := m
    cfg := { s.cfg with origLen := o.srcLen }
    res := { s.res with payloadBits := BitVec.ofNat 64 bits } }

/-- ENCODE (R141). -/
def execEncode (s : State) : Result :=
  checked .encode s fun o =>
    match encodeRange s o with
    | .ok (bits, m) => (s.storeEncoded o bits.length m).finish (ceilDiv bits.length 8)
    | .error e      => s.raiseOpen o e

end Sys2Proof.Machine
end

