-- ==== Sys2Proof/Machine/FileCodec.lean ====
section
/-! DEFINITION. FileCodec: SERIALIZE and DESERIALIZE (45_filecodec.md), the container and the code table segment
(30_encoding.md R85-R89). -/

namespace Sys2Proof.Machine

/-! ### SERIALIZE -/

/-- A code character: '0' is 0x30, '1' is 0x31 (R11, R87). -/
def codeChar (b : Bool) : Byte := if b then 0x31#8 else 0x30#8

/-- An entry of the segment: the symbol as a raw byte, then its code's characters (R87). -/
def segEntry (sym : Byte) (code : Bits) : List Byte := sym :: code.map codeChar

/-- The symbols with a code beside their codes, in increasing order of symbol (R88). -/
def coded (codes : Table Bits) : List (Byte × Bits) := codes.entries.filter fun e => e.2 != []

/-- SegBytes: an entry for each coded symbol in increasing order, a null byte between entries (R87, R88, R162). -/
def segBytes (codes : Table Bits) : List Byte :=
  List.intercalate [0x00#8] ((coded codes).map fun e => segEntry e.1 e.2)

/-- The container's header (R85). -/
def header (orig : Word) (segLen : Nat) : List Byte := le64 orig ++ le64 (BitVec.ofNat 64 segLen)

/-- The bytes a SERIALIZE writes: header, segment and payload (R86, R161). -/
def serializedLen (s : State) (o : Operands) : Nat := 16 + (segBytes s.tables.codes).length + o.srcLen.toNat

/-- SERIALIZE's capacity check and accesses (R161): the memory after its writes. -/
def serializeRange (s : State) (o : Operands) : Except Raise Memory :=
  if serializedLen s o > o.dstCap.toNat then
    .error ⟨.capacityExceeded, o.dstAddr.toNat, serializedLen s o⟩
  else
    match portWriteBytes s.platform s.mem o.dstAddr.toNat (header o.origLen (segBytes s.tables.codes).length) with
    | .error e => .error e
    | .ok m1 =>
      match portWriteBytes s.platform m1 (o.dstAddr.toNat + 16) (segBytes s.tables.codes) with
      | .error e => .error e
      | .ok m2 =>
        portCopy s.platform m2 o.srcAddr.toNat (o.dstAddr.toNat + 16 + (segBytes s.tables.codes).length)
          o.srcLen.toNat

/-- The memory and staged register of a SERIALIZE that ends OK: TABLE_SEG_LEN (R161). -/
def State.storeSerialized (s : State) (m : Memory) : State :=
  { s with
    mem := m
    res := { s.res with tableSegLen := BitVec.ofNat 64 (segBytes s.tables.codes).length } }

/-- SERIALIZE (R161). -/
def execSerialize (s : State) : Result :=
  checked .serialize s fun o =>
    match serializeRange s o with
    | .ok m    => (s.storeSerialized m).finish (serializedLen s o)
    | .error e => s.raiseOpen o e

/-! ### DESERIALIZE -/

/-- The inner loop of R168 from address `a` with `left` bytes of the segment to come: the code's bits after `acc`,
whether a separator ended it, and how many bytes are left from there, the separator among them. -/
def parseCode (p : Platform) (m : Memory) : Nat → Nat → Bits → Except Raise (Bits × Bool × Nat)
  | _, 0, acc        => .ok (acc, false, 0)
  | a, left + 1, acc =>
    match portRead p m a with
    | .error e => .error e
    | .ok c =>
      if c = 0x00#8 then .ok (acc, true, left + 1)
      else if c ≠ 0x30#8 ∧ c ≠ 0x31#8 then .error ⟨.malformedTable, a, 1⟩
      else if acc.length = Config.maxCodeLen then .error ⟨.malformedTable, a, 3⟩
      else parseCode p m (a + 1) left (acc ++ [c == 0x31#8])

/-- One of two codes is a prefix of the other (R9, R168). -/
def clash (c d : Bits) : Bool := c.isPrefixOf d || d.isPrefixOf c

/-- The checks 2, 4 and 5 of R169 on one entry, in that order: `symAddr` is the entry's address, `endAddr` that of
the separator or the segment's end. -/
def checkEntry (es : List DtEntry) (sym : Byte) (code : Bits) (symAddr endAddr : Nat) : Option Raise :=
  if code = [] then some ⟨.malformedTable, endAddr, 2⟩
  else if es.any fun e => e.sym == sym then some ⟨.malformedTable, symAddr, 4⟩
  else if es.any fun e => clash e.code code then some ⟨.malformedTable, symAddr, 5⟩
  else none

/-- The outer loop of R168 from address `a` with `left` bytes of the segment to come, `es` the entries so far. An
entry takes at least one byte, so the segment's length bounds the turns. -/
def parseLoop (p : Platform) (m : Memory) : Nat → Nat → Nat → List DtEntry → Except Raise (List DtEntry)
  | 0, _, _, es             => .ok es
  | _ + 1, _, 0, es         => .ok es
  | turns + 1, a, left + 1, es =>
    match portRead p m a with
    | .error e => .error e
    | .ok sym =>
      match parseCode p m (a + 1) left [] with
      | .error e => .error e
      | .ok (code, sep, rest) =>
        match checkEntry es sym code a (a + 1 + code.length) with
        | some e => .error e
        | none =>
          if sep then
            if rest = 1 then .error ⟨.malformedTable, a + 1 + code.length + 1, 6⟩
            else parseLoop p m turns (a + 1 + code.length + 1) (rest - 1) (es ++ [⟨sym, code⟩])
          else .ok (es ++ [⟨sym, code⟩])

/-- ParseSegment(base, len) (R168). -/
def parseSegment (p : Platform) (m : Memory) (base len : Nat) : Except Raise (List DtEntry) :=
  parseLoop p m len base len []

/-- What a container holds (R85): original_data_length, code_table_segment_len and the segment's entries. -/
structure Container where
  orig    : Nat
  segLen  : Nat
  entries : List DtEntry
deriving DecidableEq, Repr

/-- DESERIALIZE's checks and parse of the container at [src, src + len) (R163, R165, R167). -/
def parseContainer (p : Platform) (m : Memory) (src len : Nat) : Except Raise Container :=
  if len < 16 then .error ⟨.truncatedFile, src + len, 16⟩
  else
    match portReadBytes p m src 16 with
    | .error e => .error e
    | .ok h =>
      let orig := u64le (h.take 8)
      let segLen := u64le (h.drop 8)
      if segLen > len - 16 then .error ⟨.truncatedFile, src + len, min (16 + segLen) (Config.addrSpace - 1)⟩
      else if segLen = 0 ∧ orig > 0 then .error ⟨.malformedTable, src + 16, 7⟩
      else
        match parseSegment p m (src + 16) segLen with
        | .error e => .error e
        | .ok es   => .ok { orig := orig, segLen := segLen, entries := es }

/-- The decoding table and flag of a DESERIALIZE stage that ends OK (R48, R167). -/
def State.storeDt (s : State) (es : List DtEntry) : State :=
  { s with
    tables := { s.tables with dt := es }
    flags := { s.flags with dtableValid := true } }

/-- The flag of a DESERIALIZE stage that ends with an error (R48, R167). -/
def State.dropDt (s : State) : State := { s with flags := { s.flags with dtableValid := false } }

/-- The staged registers of a DESERIALIZE or DECOMPRESS that ends OK: ORIG_LEN, TABLE_SEG_LEN, PAYLOAD_ADDR (modulo
2^64) and PAYLOAD_LEN (R37, R167, R182). -/
def State.storeParsed (s : State) (o : Operands) (c : Container) : State :=
  { s with
    cfg := { s.cfg with origLen := BitVec.ofNat 64 c.orig }
    res := { s.res with
      tableSegLen := BitVec.ofNat 64 c.segLen
      payloadAddr := BitVec.ofNat 64 (o.srcAddr.toNat + 16 + c.segLen)
      payloadLen := BitVec.ofNat 64 (o.srcLen.toNat - 16 - c.segLen) } }

/-- DESERIALIZE (R167). It has no destination range, so an error leaves memory as it is (R68). -/
def execDeserialize (s : State) : Result :=
  checked .deserialize s fun o =>
    match parseContainer s.platform s.mem o.srcAddr.toNat o.srcLen.toNat with
    | .ok c    => ((s.storeDt c.entries).storeParsed o c).finish 0
    | .error e => s.dropDt.raise e

end Sys2Proof.Machine
end

