-- ==== Sys2Proof/Machine/Frequency.lean ====
section
/-! DEFINITION. FrequencyCounter: COUNT (40_frequency.md). -/

namespace Sys2Proof.Machine

/-- The counting loop of R111: 64-bit counters, all 0, one more for each byte. -/
def countBytes (bs : List Byte) : Table Word :=
  bs.foldl (fun f b => f.put b (f.at b + 1#64)) (Vector.replicate 256 0#64)

/-- The bytes COUNT reads, in ascending order, or the first read that fails (R111). -/
def readSource (s : State) (o : Operands) : Except Raise (List Byte) :=
  portReadBytes s.platform s.mem o.srcAddr.toNat o.srcLen.toNat

/-- The table and flag writes of a COUNT stage that ends OK (R48, R111). -/
def State.storeCounts (s : State) (bs : List Byte) : State :=
  { s with
    tables := { s.tables with freq := countBytes bs }
    flags := { s.flags with freqValid := true, treeValid := false, etableValid := false } }

/-- The table and flag writes of a COUNT stage that ends with IO_ERROR (R48, R111), and CLEAR's of FREQ (R184). -/
def State.dropCounts (s : State) : State :=
  { s with
    tables := { s.tables with freq := Vector.replicate 256 0#64 }
    flags := { s.flags with freqValid := false, treeValid := false, etableValid := false } }

/-- COUNT (R111). It has no destination range, so an IO_ERROR leaves memory as it is (R68). -/
def execCount (s : State) : Result :=
  checked .count s fun o =>
    match readSource s o with
    | .ok bs   => (s.storeCounts bs).finish 0
    | .error e => s.dropCounts.raise e

end Sys2Proof.Machine
end

