-- ==== Sys2Proof/Machine/Tree.lean ====
section
/-! DEFINITION. TreeBuilder: BUILD_TREE (41_tree.md). -/

namespace Sys2Proof.Machine

/-- The priority queue of R121, entries (key, seq) in increasing order of key and, for equal keys, of seq (R122), so
that PopMin takes the first. Keys are exact numbers (R8). -/
abbrev Queue := List (Nat × Nat)

/-- `x` is popped before `y`: the lesser key, or the lesser seq of equal keys (R121, R122). -/
def popsBefore (x y : Nat × Nat) : Bool := decide (x.1 < y.1 ∨ x.1 = y.1 ∧ x.2 < y.2)

/-- Insert an entry into the queue (R121). -/
def Queue.insert (q : Queue) (e : Nat × Nat) : Queue :=
  match q with
  | []     => [e]
  | x :: q => if popsBefore e x then e :: x :: q else x :: Queue.insert q e

/-- The symbols of nonzero count beside their counts, in increasing order of symbol (R121: the seeding loop). -/
def seeds (freq : Table Word) : List (Byte × Word) := freq.entries.filter fun e => e.2 != 0#64

/-- The queue after seeding: leaf `n` stands for the n-th seed and its key is the seed's count (R121). -/
def seedQueue (freq : Table Word) : Queue :=
  (seeds freq).zipIdx.foldl (fun q e => Queue.insert q (e.1.2.toNat, e.2)) []

/-- `while |Q| > 1` of R121: the two least entries become the children, first-popped on the left, of a new node whose
key is their sum. Each turn shortens the queue by one, so the queue's length bounds the turns. -/
def mergeLoop : Nat → Queue → List Node → List Node
  | turns + 1, (k1, a) :: (k2, b) :: q, nodes =>
    mergeLoop turns (Queue.insert q (k1 + k2, nodes.length)) (nodes ++ [.internal a b])
  | _, _, nodes => nodes

/-- The arena BUILD_TREE leaves: the leaves, then the internal nodes, in creation order (R121). With one leaf nothing
is merged (R123). -/
def buildNodes (freq : Table Word) : List Node :=
  mergeLoop (seeds freq).length (seedQueue freq) ((seeds freq).map fun e => .leaf e.1)

/-- The arena and flag writes of a BUILD_TREE stage that ends OK: ROOT is the last node created (R48, R121). -/
def State.storeTree (s : State) : State :=
  { s with
    tables := { s.tables with
      nodes := buildNodes s.tables.freq, root := (buildNodes s.tables.freq).length - 1 }
    flags := { s.flags with treeValid := true, etableValid := false } }

/-- The flag writes of a BUILD_TREE stage that ends with EMPTY_INPUT (R48, R121, R123). -/
def State.dropTree (s : State) : State :=
  { s with flags := { s.flags with treeValid := false, etableValid := false } }

/-- BUILD_TREE (R121). -/
def execBuildTree (s : State) : Result :=
  checked .buildTree s fun _ =>
    if seeds s.tables.freq = [] then s.dropTree.finishEmpty else s.storeTree.finish 0

end Sys2Proof.Machine
end

