-- ==== Sys2Proof/Machine/Pipeline.lean ====
section
/-! DEFINITION. The two pipelines COMPRESS and DECOMPRESS, and the control commands NOP and CLEAR
(46_pipeline_control.md). -/

namespace Sys2Proof.Machine

/-! ### COMPRESS -/

/-- Σ over s of FREQ[s] * CLEN[s] (R181 stage 4). -/
def codedBits (freq : Table Word) (codes : Table Bits) : Nat :=
  ((freq.toList.zip codes.toList).map fun e => e.1.toNat * e.2.length).sum

/-- The bytes of the container COMPRESS writes (R86, R181 stage 4). -/
def containerLen (t : Tables) : Nat :=
  16 + (segBytes t.codes).length + ceilDiv (codedBits t.freq t.codes) 8

/-- Stages 4 and 5 of R181 over the tables the earlier stages left in `s`: the capacity check, the header, the
segment, the second read pass and the payload. -/
def writeContainer (s : State) (o : Operands) : Except Raise Memory :=
  if containerLen s.tables > o.dstCap.toNat then
    .error ⟨.capacityExceeded, o.dstAddr.toNat, containerLen s.tables⟩
  else
    match portWriteBytes s.platform s.mem o.dstAddr.toNat (header o.srcLen (segBytes s.tables.codes).length) with
    | .error e => .error e
    | .ok m1 =>
      match portWriteBytes s.platform m1 (o.dstAddr.toNat + 16) (segBytes s.tables.codes) with
      | .error e => .error e
      | .ok m2 =>
        match encodeLoop s.platform m2 s.tables.codes o.srcAddr.toNat o.srcLen.toNat with
        | .error e => .error e
        | .ok bits =>
          portWriteBytes s.platform m2 (o.dstAddr.toNat + 16 + (segBytes s.tables.codes).length)
            ((pack bits).take (ceilDiv (codedBits s.tables.freq s.tables.codes) 8))

/-- The memory and staged registers of a COMPRESS that ends OK: ORIG_LEN, PAYLOAD_BITS and TABLE_SEG_LEN (R181). -/
def State.storeCompressed (s : State) (o : Operands) (m : Memory) : State :=
  { s with
    mem := m
    cfg := { s.cfg with origLen := o.srcLen }
    res := { s.res with
      payloadBits := BitVec.ofNat 64 (codedBits s.tables.freq s.tables.codes)
      tableSegLen := BitVec.ofNat 64 (segBytes s.tables.codes).length } }

/-- Stages 4 and 5 of R181 and the completion, after stages 1 to 3 left their tables and flags in `s`. -/
def State.compressTail (s : State) (o : Operands) : State :=
  match writeContainer s o with
  | .ok m    => (s.storeCompressed o m).finish (containerLen s.tables)
  | .error e => s.raiseOpen o e

/-- COMPRESS (R181): the stages COUNT, BUILD_TREE and BUILD_TABLE, each with its own table and flag writes, then the
container. -/
def execCompress (s : State) : Result :=
  checked .compress s fun o =>
    match readSource s o with
    | .error e => s.dropCounts.raiseOpen o e
    | .ok bs =>
      if seeds (countBytes bs) = [] then (s.storeCounts bs).dropTree.finishEmpty
      else ((s.storeCounts bs).storeTree.storeCodes).compressTail o

/-! ### DECOMPRESS -/

/-- The job of DECOMPRESS's stage 2: the payload range of the container and the length its header gives (R182). -/
def Operands.payloadJob (o : Operands) (c : Container) : DecodeJob :=
  { src := o.srcAddr.toNat + 16 + c.segLen, srcLen := o.srcLen.toNat - 16 - c.segLen
    dst := o.dstAddr.toNat, cap := o.dstCap.toNat, orig := c.orig }

/-- DECOMPRESS (R182): the stages DESERIALIZE and DECODE; DTABLE_VALID stays 1 whatever stage 2 does. -/
def execDecompress (s : State) : Result :=
  checked .decompress s fun o =>
    match parseContainer s.platform s.mem o.srcAddr.toNat o.srcLen.toNat with
    | .error e => s.dropDt.raiseOpen o e
    | .ok c =>
      match decodeStream s.platform c.entries (o.payloadJob c) s.mem with
      | .error e => (s.storeDt c.entries).raiseOpen o e
      | .ok m    => (((s.storeDt c.entries).storeMem m).storeParsed o c).finish c.orig

/-! ### NOP and CLEAR -/

/-- NOP (R183). -/
def execNop (s : State) : Result := checked .nop s fun _ => s.finish 0

/-- CLEAR's table and flag writes: FREQ all 0 and no flag set (R48, R184). -/
def State.clearTables (s : State) : State :=
  { s with
    tables := { s.tables with freq := Vector.replicate 256 0#64 }
    flags := .cleared }

/-- CLEAR (R184). -/
def execClear (s : State) : Result := checked .clear s fun _ => s.clearTables.finish 0

end Sys2Proof.Machine
end

