-- ==== Sys2Proof/Machine/Registers.lean ====
section
/-! DEFINITION. The register file (10_state.md R23-R43): which register an offset names, what a register reads, what a
write to it does. -/

namespace Sys2Proof.Machine

/-- A register of the map of R23; `reserved` is every reserved offset (R43). -/
inductive Reg
  | id | cmd | status | ctrl
  | srcAddr | srcLen | dstAddr | dstCap | origLen
  | resultLen | payloadBits | tableSegLen | payloadAddr | payloadLen | errAddr | errInfo
  | etCount | etMaxlen | dtCount | dtMaxlen
  | freqWin (sym : Byte)
  | clenWin (sym : Byte)
  | codeWin (sym : Byte) (word : BitVec 2)
  | reserved
deriving DecidableEq, Repr

/-- The register at an offset from REG_BASE that is a multiple of 8 and below 0x4000 (R23). -/
def Reg.ofOffset (off : Nat) : Reg :=
  if off < 0x0A0 then
    match off / 8 with
    | 0  => .id
    | 1  => .cmd
    | 2  => .status
    | 3  => .ctrl
    | 4  => .srcAddr
    | 5  => .srcLen
    | 6  => .dstAddr
    | 7  => .dstCap
    | 8  => .origLen
    | 9  => .resultLen
    | 10 => .payloadBits
    | 11 => .tableSegLen
    | 12 => .payloadAddr
    | 13 => .payloadLen
    | 14 => .errAddr
    | 15 => .errInfo
    | 16 => .etCount
    | 17 => .etMaxlen
    | 18 => .dtCount
    | _  => .dtMaxlen
  else if off < 0x800 then .reserved
  else if off < 0x1000 then .freqWin (BitVec.ofNat 8 ((off - 0x800) / 8))
  else if off < 0x1800 then .clenWin (BitVec.ofNat 8 ((off - 0x1000) / 8))
  else if off < 0x2000 then .reserved
  else .codeWin (BitVec.ofNat 8 ((off - 0x2000) / 32)) (BitVec.ofNat 2 ((off - 0x2000) / 8))

/-- A register's offset from REG_BASE (R23); `reserved` stands for many, the first is given. -/
def Reg.offset : Reg → Nat
  | .id => 0x000
  | .cmd => 0x008
  | .status => 0x010
  | .ctrl => 0x018
  | .srcAddr => 0x020
  | .srcLen => 0x028
  | .dstAddr => 0x030
  | .dstCap => 0x038
  | .origLen => 0x040
  | .resultLen => 0x048
  | .payloadBits => 0x050
  | .tableSegLen => 0x058
  | .payloadAddr => 0x060
  | .payloadLen => 0x068
  | .errAddr => 0x070
  | .errInfo => 0x078
  | .etCount => 0x080
  | .etMaxlen => 0x088
  | .dtCount => 0x090
  | .dtMaxlen => 0x098
  | .reserved => 0x0A0
  | .freqWin sym => 0x800 + 8 * sym.toNat
  | .clenWin sym => 0x1000 + 8 * sym.toNat
  | .codeWin sym w => 0x2000 + 32 * sym.toNat + 8 * w.toNat

/-! ### Reads -/

/-- ET_COUNT: the number of coded symbols when ETABLE_VALID, else 0 (R39). -/
def State.etCount (s : State) : Nat :=
  if s.flags.etableValid then (coded s.tables.codes).length else 0

/-- ET_MAXLEN: the longest CLEN when ETABLE_VALID, else 0 (R39). -/
def State.etMaxlen (s : State) : Nat :=
  if s.flags.etableValid then s.tables.codes.toList.foldl (fun n c => max n c.length) 0 else 0

/-- DT_COUNT: DTN when DTABLE_VALID, else 0 (R39). -/
def State.dtCount (s : State) : Nat := if s.flags.dtableValid then s.tables.dt.length else 0

/-- DT_MAXLEN: the longest code of DT when DTABLE_VALID, else 0 (R39). -/
def State.dtMaxlen (s : State) : Nat := if s.flags.dtableValid then longestCode s.tables.dt else 0

/-- CODE_WIN[s][w]: bit b is bit 64w + b of the code, 0 past its end; 0 unless ETABLE_VALID (R42). -/
def State.codeWord (s : State) (sym : Byte) (w : BitVec 2) : Word :=
  if s.flags.etableValid then
    (BitVec.ofBoolListLE (((s.tables.codes.at sym).drop (64 * w.toNat)).take 64)).setWidth 64
  else 0#64

/-- What a register reads while the engine is idle, and, but for the volatile ones, while it is busy (R24-R43, R53). -/
def State.readReg (s : State) : Reg → Word
  | .id          => Config.hwId
  | .cmd         => 0#64
  | .status      => s.statusWord
  | .ctrl        => s.ctrlWord
  | .srcAddr     => s.cfg.srcAddr
  | .srcLen      => s.cfg.srcLen
  | .dstAddr     => s.cfg.dstAddr
  | .dstCap      => s.cfg.dstCap
  | .origLen     => s.cfg.origLen
  | .resultLen   => s.res.resultLen
  | .payloadBits => s.res.payloadBits
  | .tableSegLen => s.res.tableSegLen
  | .payloadAddr => s.res.payloadAddr
  | .payloadLen  => s.res.payloadLen
  | .errAddr     => s.res.errAddr
  | .errInfo     => s.res.errInfo
  | .etCount     => BitVec.ofNat 64 s.etCount
  | .etMaxlen    => BitVec.ofNat 64 s.etMaxlen
  | .dtCount     => BitVec.ofNat 64 s.dtCount
  | .dtMaxlen    => BitVec.ofNat 64 s.dtMaxlen
  | .freqWin sym => if s.flags.freqValid then s.tables.freq.at sym else 0#64
  | .clenWin sym => if s.flags.etableValid then BitVec.ofNat 64 (s.tables.codes.at sym).length else 0#64
  | .codeWin sym w => s.codeWord sym w
  | .reserved    => 0#64

/-- The summary registers and the windows: they read any value while BUSY (R39-R42, R53). -/
def Reg.volatile : Reg → Bool
  | .etCount | .etMaxlen | .dtCount | .dtMaxlen | .freqWin _ | .clenWin _ | .codeWin _ _ => true
  | .id | .cmd | .status | .ctrl | .srcAddr | .srcLen | .dstAddr | .dstCap | .origLen | .resultLen | .payloadBits
  | .tableSegLen | .payloadAddr | .payloadLen | .errAddr | .errInfo | .reserved => false

/-- The host's last read delivered a free word: the next draw. -/
def State.deliverFree (s : State) : State :=
  { s with hostData := Config.freeWord s.draws, draws := s.draws + 1 }

/-- The host's last read delivered `v`. -/
def State.deliver (s : State) (v : Word) : State := { s with hostData := v }

/-- The host has read STATUS: if that read had BUSY = 0, it has seen every completion so far (R236). R71 (b) and R237
ask that the read return DONE = 1 too; that BUSY = 0 is enough, also where an ACK has cleared DONE before, is a DESIGN
CHOICE (log entry 17). This is the host's knowledge, no side effect on the block (R66). -/
def State.seeStatus (s : State) : State := if s.busy then s else { s with unseen := [] }

/-- A host read of a register (R53, R66). -/
def State.hostReadReg (s : State) (r : Reg) : State :=
  if s.busy && r.volatile then s.deliverFree
  else if r = .status then (s.deliver (s.readReg r)).seeStatus
  else s.deliver (s.readReg r)

/-! ### Writes -/

/-- A write to a configuration register: dropped while BUSY (R51). -/
def State.writeCfg (s : State) (cfg : Operands) : State := if s.busy then s.dropWrite else { s with cfg := cfg }

/-- A host write of `v` to a register. CMD issues, or is dropped while BUSY (R50, R51); STATUS and CTRL are accepted in
either phase (R27, R28); a write to a read-only or reserved one is ignored (R43). -/
def State.writeReg (s : State) (r : Reg) (v : Word) : State :=
  match r with
  | .cmd     => if s.busy then s.dropWrite else s.issue v
  | .status  => s.writeStatus v
  | .ctrl    => s.writeCtrl v
  | .srcAddr => s.writeCfg { s.cfg with srcAddr := v }
  | .srcLen  => s.writeCfg { s.cfg with srcLen := v }
  | .dstAddr => s.writeCfg { s.cfg with dstAddr := v }
  | .dstCap  => s.writeCfg { s.cfg with dstCap := v }
  | .origLen => s.writeCfg { s.cfg with origLen := v }
  | .id | .resultLen | .payloadBits | .tableSegLen | .payloadAddr | .payloadLen | .errAddr | .errInfo
  | .etCount | .etMaxlen | .dtCount | .dtMaxlen | .freqWin _ | .clenWin _ | .codeWin _ _ | .reserved => s

end Sys2Proof.Machine
end

