-- ==== Sys2Proof/Machine/Ports.lean ====
section
/-! DEFINITION. What a step does with the outside world: the host's bus and memory operations (20_memory.md R60, R65,
R72; 30_encoding.md R84), reset (70_reset_and_hazards.md R230, R231), the platform, and the engine's turn. -/

namespace Sys2Proof.Machine

/-- The offset from REG_BASE of a host bus address (R23, R84), modulo 2^64. -/
def State.busOffset (s : State) (addr : Word) : Nat := (addr - s.platform.regBase).toNat

/-- A register access the block has a meaning for: 64 bits wide, at a multiple of 8 (R65). -/
def accessOk (off bytes : Nat) : Bool := decide (bytes = 8 ∧ off % 8 = 0)

/-- A host bus write. The block is selected at the offsets of its register file (R23); an access elsewhere is another
device's and leaves it alone (log entry 9). -/
def hostWrite (s : State) (addr : Word) (bytes : Nat) (v : Word) : Result :=
  if Config.regSpace ≤ s.busOffset addr then .next s
  else if accessOk (s.busOffset addr) bytes then .next (s.writeReg (.ofOffset (s.busOffset addr)) v)
  else .refused .refusedAccess

/-- A host bus read. The data of a read the block is not selected for is another device's: any value (log entry 9). -/
def hostRead (s : State) (addr : Word) (bytes : Nat) : Result :=
  if Config.regSpace ≤ s.busOffset addr then .next s.deliverFree
  else if accessOk (s.busOffset addr) bytes then .next (s.hostReadReg (.ofOffset (s.busOffset addr)))
  else .refused .refusedAccess

/-- A host write of one byte of system memory, by the host's own path (R60 (b)): a race inside the ranges of a command
in flight or unseen (R72 (a), R236), else plain memory (R72 (d)). -/
def hostStore (s : State) (addr : Word) (v : Byte) : Result :=
  if s.races addr.toNat then .fault .bufferRace else .next { s with mem := s.mem.write addr.toNat v }

/-- A host read of one byte of system memory: any value of an open destination byte (R72 (b), R236), else the memory's
(R72 (c), (d)). -/
def hostLoad (s : State) (addr : Word) : Result :=
  if s.openRead addr.toNat then
    .next { s with hostData := (Config.freeByte s.draws).setWidth 64, draws := s.draws + 1 }
  else .next (s.deliver ((s.mem.read addr.toNat).setWidth 64))

/-- Reset of the block (R230): all block state takes its reset value; memory, the platform and the host are outside. -/
def State.resetBlock (s : State) : State :=
  { State.reset with
    mem := s.mem, platform := s.platform, inputs := s.inputs, hostData := s.hostData, draws := s.draws }

/-- Memory when reset abandons a command (R231): each byte of its latched destination range is any value, its source
range is unchanged. -/
def State.abandon (s : State) (c : Latched) : State :=
  match decode c.word with
  | .error _ => s
  | .ok i    =>
    if usesDst i then
      { s with
        mem := s.mem.scramble c.inSrc c.ops.dstAddr.toNat s.draws c.ops.dstCap.toNat
        draws := s.draws + c.ops.dstCap.toNat }
    else s

/-- The reset input (R230, R231). -/
def State.applyReset (s : State) : State :=
  match s.engine with
  | none   => s.resetBlock
  | some c => (s.abandon c).resetBlock

/-- The engine's turn: it completes the command in flight (R14, R52), a word that selects no operation with BAD_COMMAND
and the whole word as information (R82, R203, R207); an idle engine does nothing (R220, R232). -/
def engineTurn (s : State) : Result :=
  match s.engine with
  | none   => .next s
  | some c =>
    match decode c.word with
    | .ok i    => exec i s
    | .error _ => .next (s.raise ⟨.badCommand, 0, c.word.toNat⟩)

/-- One input acts on the machine. -/
def act (s : State) : Input → Result
  | .engine                => engineTurn s
  | .busWrite addr bytes v => hostWrite s addr bytes v
  | .busRead addr bytes    => hostRead s addr bytes
  | .memWrite addr v       => hostStore s addr v
  | .memRead addr          => hostLoad s addr
  | .reset                 => .next s.applyReset
  | .busMap faults         => .next { s with platform := { s.platform with busFaults := faults } }

/-- `s` with the command word `w` latched as an issue latches it (R50), and the engine's turn next. -/
def State.issueNow (s : State) (w : Word) : State :=
  { s.issue w with inputs := .engine :: s.inputs }

end Sys2Proof.Machine
end

