-- ==== Sys2Proof/Machine/Step.lean ====
section
/-! DEFINITION. One step of the machine. -/

namespace Sys2Proof.Machine

/-- One step: the next input acts; when none is left, the engine has its turn, so that every issued command completes
(R14, R241). -/
def step (s : State) : Host.Outcome State Fault Refusal :=
  match s.inputs with
  | []        => engineTurn s
  | i :: rest => act { s with inputs := rest } i

/-- The machine does not fetch (R22, R75): the command word is the data of a write to CMD. `s` with that word latched
as an accepted CMD write latches it, and the engine's turn next, so that the very next step runs it (log entry 4). -/
def State.withFetchWord (s : State) (nbits w : Nat) : State := s.issueNow (tableWord nbits w)

end Sys2Proof.Machine
end

