-- ==== Sys2Proof/Safety.lean ====
section
/-! DEFINITION. What counts as a safe run and a sound state, and the terms the claims use. Nothing here is called by
the machine; a claim that names one of these says what the spec says, not what the machine computes. -/

namespace Sys2Proof.Machine

/-! ### Ranges and accesses -/

/-- The source range passes its checks of R207: SRC_LEN ≤ MAX_LEN and the range does not wrap. -/
abbrev SrcOk (o : Operands) : Prop :=
  o.srcLen.toNat ≤ Config.maxLen ∧ o.srcAddr.toNat + o.srcLen.toNat ≤ 2 ^ 64

/-- The destination range passes its checks of R207. -/
abbrev DstOk (o : Operands) : Prop :=
  o.dstCap.toNat ≤ Config.maxLen ∧ o.dstAddr.toNat + o.dstCap.toNat ≤ 2 ^ 64

/-- The ranges do not overlap (R207; an empty range overlaps nothing, R69). -/
abbrev Apart (o : Operands) : Prop :=
  o.srcLen.toNat = 0 ∨ o.dstCap.toNat = 0 ∨ o.dstAddr.toNat + o.dstCap.toNat ≤ o.srcAddr.toNat
    ∨ o.srcAddr.toNat + o.srcLen.toNat ≤ o.dstAddr.toNat

/-- Every memory-port read of [a, a + n) completes (R61). -/
def Readable (p : Platform) (a n : Nat) : Prop := ∀ x, a ≤ x → x < a + n → p.busOk x .read = true

/-- Every memory-port write of [a, a + n) completes (R61). -/
def Writable (p : Platform) (a n : Nat) : Prop := ∀ x, a ≤ x → x < a + n → p.busOk x .write = true

/-- `m` differs from the memory of `s` in bytes of the destination range only (R205 (c)). -/
def State.DstOnly (s : State) (m : Memory) : Prop :=
  ∀ a, a < s.operands.dstAddr.toNat ∨ s.operands.dstAddr.toNat + s.operands.dstCap.toNat ≤ a → m.read a = s.mem.read a

/-- The bytes of the source range (R68). -/
def State.source (s : State) : List Byte := s.mem.bytes s.operands.srcAddr.toNat s.operands.srcLen.toNat

/-- The stream bits of the payload of `n` bytes at `a`, in order (R64). -/
def payloadStream (m : Memory) (a n : Nat) : Bits := (List.range (8 * n)).map fun k => streamBit (m.read (a + k / 8)) k

/-! ### Completion, written out from R52 -/

/-- `s` after a completion with this code, address, information word and output length, where nothing else changed. -/
def State.ended (s : State) (code : Code) (addr info len : Nat) : State :=
  { irqEn := s.irqEn, cfg := s.cfg
    res := { resultLen := BitVec.ofNat 64 len, payloadBits := s.res.payloadBits, tableSegLen := s.res.tableSegLen
             payloadAddr := s.res.payloadAddr, payloadLen := s.res.payloadLen
             errAddr := BitVec.ofNat 64 addr, errInfo := BitVec.ofNat 64 info }
    done := true, drop := s.drop, flags := s.flags, code := code, lastOp := s.lastOp, engine := none
    tables := s.tables, mem := s.mem, platform := s.platform, inputs := s.inputs, hostData := s.hostData
    unseen := s.engine.toList ++ s.unseen, draws := s.draws }

/-! ### Codes and tables -/

/-- No two codes of different entries are prefixes of one another (R9, R171). -/
abbrev PrefixFree (cs : List Bits) : Prop := cs.Pairwise fun c d => ¬ c <+: d ∧ ¬ d <+: c

/-- The invariants of the decoding table (R47, R171). -/
structure DtSound (dt : List DtEntry) : Prop where
  size    : dt.length ≤ 256
  syms    : (dt.map DtEntry.sym).Nodup
  lengths : ∀ e ∈ dt, 1 ≤ e.code.length ∧ e.code.length ≤ 255
  codes   : PrefixFree (dt.map DtEntry.code)

/-- The number of symbols of nonzero count, L (R113, R124). -/
def distinctSyms (freq : Table Word) : Nat := allBytes.countP fun b => freq.at b != 0#64

/-- Σ over s of FREQ[s] (R44, R113). -/
def totalCount (freq : Table Word) : Nat := (allBytes.map fun b => (freq.at b).toNat).sum

/-- The node a path leads to from node `i`: 0 takes the left child, 1 the right (R130). -/
def follow (nodes : List Node) : Nat → Bits → Option Node
  | i, []      => nodes[i]?
  | i, b :: bs =>
    match nodes[i]? with
    | some (.internal l r) => follow nodes (if b then r else l) bs
    | _                    => none

/-- Node `j` waits in the queue when node `i` is created (R121): it was created before, and no node before `i` has
taken it as a child. -/
def Waiting (nodes : List Node) (i j : Nat) : Prop :=
  j < i ∧ ∀ k l r : Nat, k < i → nodes[k]? = some (Node.internal l r) → l ≠ j ∧ r ≠ j

/-- Node `i` pops before node `j`: the lesser key, or the lesser index of equal keys (R121, R122). -/
def PopsFirst (key : Nat → Nat) (i j : Nat) : Prop := key i < key j ∨ key i = key j ∧ i < j

/-- The bit string of an input under a code table: the codes of its bytes in order (R90). -/
def codedStream (codes : Table Bits) (x : List Byte) : Bits := x.flatMap fun b => codes.at b

/-- The segment of a list of entries, in their order (R87). -/
def entriesBytes (es : List DtEntry) : List Byte := List.intercalate [0x00#8] (es.map fun e => segEntry e.sym e.code)

/-- The entries of the coded symbols of a code table, in increasing order of symbol (R88, R172). -/
def codedEntries (codes : Table Bits) : List DtEntry :=
  (allBytes.filter fun b => codes.at b != []).map fun b => { sym := b, code := codes.at b }

/-! ### Sound states -/

/-- While a command is in flight the latched operands are the configuration registers (R50, R51), DONE and CODE are 0
and LAST_OP is the word's low byte (R26, R50). -/
def State.LatchSound (s : State) : Prop :=
  ∀ c, s.engine = some c →
    c.ops = s.cfg ∧ s.done = false ∧ s.code = .ok ∧ s.lastOp = c.word.extractLsb' 0 8

/-- What the validity flags say of the tables (R26, R44, R48): a tree only from a count, a code table only from a
tree; the counts add up to at most MAX_LEN; NODE and ROOT hold the tree built from FREQ, which is not empty, and CODE
the code table of that tree. -/
structure State.TablesSound (s : State) : Prop where
  treeAfterCount : s.flags.treeValid = true → s.flags.freqValid = true
  codesAfterTree : s.flags.etableValid = true → s.flags.treeValid = true
  counts : totalCount s.tables.freq ≤ Config.maxLen
  tree   : s.flags.treeValid = true →
    s.tables.nodes = buildNodes s.tables.freq ∧ s.tables.root + 1 = s.tables.nodes.length
  codes  : s.flags.etableValid = true → s.tables.codes = buildCodes s.tables.nodes s.tables.root

/-- A sound state: memory in canonical form, the latch, the tables and the decoding table sound. -/
structure State.Sound (s : State) : Prop where
  mem    : s.mem.wf
  latch  : s.LatchSound
  tables : s.TablesSound
  dt     : DtSound s.tables.dt

/-! ### Safe runs -/

/-- A run from `s` is safe when no number of steps ends in a fault (R215): the host never races the engine. -/
def State.Safe (s : State) : Prop := ∀ k r, Sys2Proof.core.run k s ≠ .fault r

end Sys2Proof.Machine
end

