-- ==== Sys2Proof/Certificates/Slice0/Obligations.lean ====
section
/-! DEFINITION. The statements for the provers, each about the machine as the spec's rules describe it. A state `ended`
is a completion written out from 10_state.md R52 (Safety.lean), not the machine's own function. -/

open Sys2Proof Sys2Proof.Machine

/-! ### Command words -/

/-- Decoding the command word of a command gives it back (R80, R81). -/
def Obligations.DecodeOfEncodeIsTheCommand : Prop := ∀ i : Instr, decode (encode i) = .ok i

/-- A few words of the opcode map, written out (R81, R82). -/
def Obligations.OpcodeMapWords : Prop :=
  decode 0x0000000000000001#64 = .ok .count ∧ decode 0x0000000000000004#64 = .ok .encode ∧
  decode 0x0000000000000009#64 = .ok .decompress ∧ decode 0x000000000000000A#64 = .ok .clear ∧
  decode 0x000000000000000B#64 = .error .unknownOpcode ∧ decode 0x0000000000000100#64 = .error .reservedBits

/-- The words that select no operation are exactly those with a reserved bit or an opcode above 0x0A, and every other
word is the encoding of the command it decodes to; an illegal word completes with BAD_COMMAND, the whole word as
information, and changes no other state (R82). -/
def Obligations.IllegalWordsCompleteBadCommand : Prop :=
  (∀ w : Word,
    ((∃ r, decode w = .error r) ↔ w.extractLsb' 8 56 ≠ 0#56 ∨ 0x0B ≤ (w.extractLsb' 0 8).toNat) ∧
    ∀ i, decode w = .ok i → encode i = w) ∧
  ∀ s c, s.engine = some c →
    (c.word.extractLsb' 8 56 ≠ 0#56 ∨ 0x0B ≤ (c.word.extractLsb' 0 8).toNat) →
    (s.inputs = [] → step s = .next (s.ended .badCommand 0 c.word.toNat 0)) ∧
    ∀ rest, s.inputs = .engine :: rest →
      step s = .next (State.ended { s with inputs := rest } .badCommand 0 c.word.toNat 0)

/-! ### Steps -/

/-- A step runs the command the latched word decodes to, on the engine's turn: when the turn is the next input, and
when no input is left. -/
def Obligations.StepRunsTheLatchedCommand : Prop :=
  ∀ s c i, s.engine = some c → decode c.word = .ok i →
    (s.inputs = [] → step s = exec i s) ∧
    ∀ rest, s.inputs = .engine :: rest → step s = exec i { s with inputs := rest }

/-- Issue: a write to CMD accepted while idle latches the word and the configuration registers, sets BUSY and clears
DONE, ERR and CODE; the engine then executes the command (R50). -/
def Obligations.AcceptedCommandIsLatchedAndRuns : Prop :=
  ∀ s w rest, s.engine = none → s.inputs = .busWrite (s.platform.regBase + 0x008#64) 8 w :: rest →
    ∃ t, step s = .next t ∧
      t = { s with
        inputs := rest, engine := some { word := w, ops := s.cfg }, done := false, code := .ok
        lastOp := w.extractLsb' 0 8 } ∧
      t.busy = true ∧ t.err = false ∧
      ∀ i, decode w = .ok i →
        (rest = [] → step t = exec i t) ∧ ∀ rest', rest = .engine :: rest' → step t = exec i { t with inputs := rest' }

/-- While BUSY a write to CMD or a configuration register is dropped and sets DROP; STATUS and CTRL writes are accepted
in either phase (R51). -/
def Obligations.WritesWhileBusyAreDropped : Prop :=
  ∀ s v rest,
    (∀ off ∈ [0x008, 0x020, 0x028, 0x030, 0x038, 0x040], s.busy = true →
      s.inputs = .busWrite (s.platform.regBase + BitVec.ofNat 64 off) 8 v :: rest →
      step s = .next { s with inputs := rest, drop := true }) ∧
    (s.inputs = .busWrite (s.platform.regBase + 0x010#64) 8 v :: rest →
      step s = .next { s with inputs := rest, done := s.done && !v.getLsbD 1, drop := s.drop && !v.getLsbD 3 }) ∧
    (s.inputs = .busWrite (s.platform.regBase + 0x018#64) 8 v :: rest →
      step s = .next { s with inputs := rest, irqEn := v.getLsbD 0 })

/-- A configuration register written while idle reads back the value, whole, and the other four keep theirs
(R29-R33, R240). -/
def Obligations.ConfigurationRegistersReadBack : Prop :=
  ∀ s v rest, ∀ off ∈ [0x020, 0x028, 0x030, 0x038, 0x040], s.engine = none →
    s.inputs = .busWrite (s.platform.regBase + BitVec.ofNat 64 off) 8 v ::
      .busRead (s.platform.regBase + BitVec.ofNat 64 off) 8 :: rest →
    ∃ t u, step s = .next t ∧ step t = .next u ∧ u.hostData = v ∧
      (∀ off' ∈ [0x020, 0x028, 0x030, 0x038, 0x040], off' ≠ off →
        u.readReg (.ofOffset off') = s.readReg (.ofOffset off')) ∧
      u = { s with inputs := rest, cfg := u.cfg, hostData := v }

/-- Reserved offsets read 0; a write to a reserved offset, to a read-only register or to a reserved bit of STATUS or
CTRL has no effect, and none of them sets DROP (R43). -/
def Obligations.ReservedAndReadOnlyIgnoreWrites : Prop :=
  (∀ s v rest off, off < 0x4000 → off % 8 = 0 → off ≠ 0x008 → off ≠ 0x010 → off ≠ 0x018 → (off < 0x020 ∨ 0x040 < off) →
    s.inputs = .busWrite (s.platform.regBase + BitVec.ofNat 64 off) 8 v :: rest →
    step s = .next { s with inputs := rest }) ∧
  (∀ s rest off, (0x0A0 ≤ off ∧ off ≤ 0x7F8 ∨ 0x1800 ≤ off ∧ off ≤ 0x1FF8) → off % 8 = 0 →
    s.inputs = .busRead (s.platform.regBase + BitVec.ofNat 64 off) 8 :: rest →
    step s = .next { s with inputs := rest, hostData := 0#64 }) ∧
  (∀ s : State, s.statusWord.extractLsb' 24 40 = 0#40 ∧ s.ctrlWord.extractLsb' 1 63 = 0#63) ∧
  ∀ (s : State) (v v' : Word),
    (v.getLsbD 1 = v'.getLsbD 1 → v.getLsbD 3 = v'.getLsbD 3 → s.writeReg .status v = s.writeReg .status v') ∧
    (v.getLsbD 0 = v'.getLsbD 0 → s.writeReg .ctrl v = s.writeReg .ctrl v')

/-- The value of each register that is neither STATUS, a summary register nor a window, read in either phase; a read
has no side effect on the block (R24, R25, R28-R38, R53, R66). -/
def Obligations.RegistersReadTheirValues : Prop :=
  ∀ s rest, ∀ p ∈ [(0x000, 0x0000000750495A48#64), (0x008, 0#64), (0x018, if s.irqEn then 1#64 else 0#64),
      (0x020, s.cfg.srcAddr), (0x028, s.cfg.srcLen), (0x030, s.cfg.dstAddr), (0x038, s.cfg.dstCap),
      (0x040, s.cfg.origLen), (0x048, s.res.resultLen), (0x050, s.res.payloadBits), (0x058, s.res.tableSegLen),
      (0x060, s.res.payloadAddr), (0x068, s.res.payloadLen), (0x070, s.res.errAddr), (0x078, s.res.errInfo)],
    s.inputs = .busRead (s.platform.regBase + BitVec.ofNat 64 p.1) 8 :: rest →
    step s = .next { s with inputs := rest, hostData := p.2 }

/-- STATUS reads its fields at their bits (R26), and the read has no side effect on the block (R66). Beside the read data
it changes only what the host has seen: that a read with BUSY = 0 alone makes every completion seen is the model's choice
(log entry 17). -/
def Obligations.StatusReadsItsFields : Prop :=
  ∀ s rest, s.inputs = .busRead (s.platform.regBase + 0x010#64) 8 :: rest →
    ∃ w u, step s = .next { s with inputs := rest, hostData := w, unseen := u } ∧
      w.getLsbD 0 = s.busy ∧ w.getLsbD 1 = s.done ∧ w.getLsbD 2 = decide (0x10 ≤ s.code.toByte.toNat) ∧
      w.getLsbD 3 = s.drop ∧ w.getLsbD 4 = s.flags.freqValid ∧ w.getLsbD 5 = s.flags.treeValid ∧
      w.getLsbD 6 = s.flags.etableValid ∧ w.getLsbD 7 = s.flags.dtableValid ∧
      w.extractLsb' 8 8 = s.code.toByte ∧ w.extractLsb' 16 8 = s.lastOp ∧ w.extractLsb' 24 40 = 0#40 ∧
      u = if s.busy then s.unseen else []

/-- The windows while idle: FREQ_WIN, CLEN_WIN and, bit by bit, CODE_WIN, each 0 while its flag is 0; while BUSY each
reads a free value. The read changes nothing but the data read and the model's count of draws (R40, R41, R42, R66). -/
def Obligations.WindowsShowTheTables : Prop :=
  ∀ s rest (sym : Byte) (w : BitVec 2),
    (s.inputs = .busRead (s.platform.regBase + BitVec.ofNat 64 (0x800 + 8 * sym.toNat)) 8 :: rest →
      ∃ t, step s = .next t ∧ t = { s with inputs := rest, hostData := t.hostData, draws := t.draws } ∧
        (s.busy = false → t.hostData = if s.flags.freqValid then s.tables.freq.at sym else 0#64) ∧
        (s.busy = true → ∃ n, t.hostData = Config.freeWord n)) ∧
    (s.inputs = .busRead (s.platform.regBase + BitVec.ofNat 64 (0x1000 + 8 * sym.toNat)) 8 :: rest →
      ∃ t, step s = .next t ∧ t = { s with inputs := rest, hostData := t.hostData, draws := t.draws } ∧
        (s.busy = false → t.hostData =
          if s.flags.etableValid then BitVec.ofNat 64 (s.tables.codes.at sym).length else 0#64) ∧
        (s.busy = true → ∃ n, t.hostData = Config.freeWord n)) ∧
    (s.inputs = .busRead (s.platform.regBase + BitVec.ofNat 64 (0x2000 + 32 * sym.toNat + 8 * w.toNat)) 8 :: rest →
      ∃ t, step s = .next t ∧ t = { s with inputs := rest, hostData := t.hostData, draws := t.draws } ∧
        (s.busy = false → ∀ b, b < 64 → t.hostData.getLsbD b =
          (s.flags.etableValid && (s.tables.codes.at sym).getD (64 * w.toNat + b) false)) ∧
        (s.busy = true → ∃ n, t.hostData = Config.freeWord n))

/-- The summary registers while idle: the number of codes and the longest, of the code table and of the decoding table,
0 while the flag is 0; while BUSY a free value. The read changes nothing but the data read and the model's count of draws
(R39, R66). -/
def Obligations.SummaryRegistersCountTheTables : Prop :=
  ∀ s rest, ∀ off ∈ [0x080, 0x088, 0x090, 0x098],
    s.inputs = .busRead (s.platform.regBase + BitVec.ofNat 64 off) 8 :: rest →
    ∃ t, step s = .next t ∧ t = { s with inputs := rest, hostData := t.hostData, draws := t.draws } ∧
      (s.busy = true → ∃ n, t.hostData = Config.freeWord n) ∧
      (s.busy = false → off = 0x080 → t.hostData = if s.flags.etableValid then
        BitVec.ofNat 64 (allBytes.countP fun b => decide (0 < (s.tables.codes.at b).length)) else 0#64) ∧
      (s.busy = false → off = 0x088 → ∃ n, t.hostData = BitVec.ofNat 64 n ∧
        (s.flags.etableValid = false → n = 0) ∧
        (s.flags.etableValid = true → (∀ b, (s.tables.codes.at b).length ≤ n) ∧
          ∃ b, (s.tables.codes.at b).length = n)) ∧
      (s.busy = false → off = 0x090 → t.hostData = if s.flags.dtableValid then
        BitVec.ofNat 64 s.tables.dt.length else 0#64) ∧
      (s.busy = false → off = 0x098 → ∃ n, t.hostData = BitVec.ofNat 64 n ∧
        (s.flags.dtableValid = false ∨ s.tables.dt = [] → n = 0) ∧
        (s.flags.dtableValid = true → s.tables.dt ≠ [] → (∀ e ∈ s.tables.dt, e.code.length ≤ n) ∧
          ∃ e ∈ s.tables.dt, e.code.length = n))

/-- Inside the register file an access is accepted when it is 64 bits wide at a multiple of 8, and refused otherwise
(R65). -/
def Obligations.RegisterAccessesAre64BitsAligned : Prop :=
  ∀ s addr bytes v rest, (addr - s.platform.regBase).toNat < 0x4000 →
    (s.inputs = .busWrite addr bytes v :: rest ∨ s.inputs = .busRead addr bytes :: rest) →
    (bytes = 8 → (addr - s.platform.regBase).toNat % 8 = 0 → ∃ t, step s = .next t) ∧
    (bytes ≠ 8 ∨ (addr - s.platform.regBase).toNat % 8 ≠ 0 → step s = .refused .refusedAccess)

/-- IRQ is DONE and IRQ_EN. It falls at a STATUS write with bit 1 set, at an accepted issue, at reset and at a CTRL
write clearing IRQ_EN; enabling it with DONE = 1 asserts it at once; reading STATUS does not clear it (R210, R211). -/
def Obligations.InterruptFollowsDoneAndEnable : Prop :=
  ∀ s t rest, step s = .next t →
    (s.irq = true ↔ s.done = true ∧ s.irqEn = true) ∧
    (∀ v, s.inputs = .busWrite (s.platform.regBase + 0x010#64) 8 v :: rest → v.getLsbD 1 = true → t.irq = false) ∧
    (∀ w, s.inputs = .busWrite (s.platform.regBase + 0x008#64) 8 w :: rest → s.busy = false → t.irq = false) ∧
    (s.inputs = .reset :: rest → t.irq = false) ∧
    (∀ v, s.inputs = .busWrite (s.platform.regBase + 0x018#64) 8 v :: rest → t.irq = (s.done && v.getLsbD 0)) ∧
    (s.inputs = .busRead (s.platform.regBase + 0x010#64) 8 :: rest → t.irq = s.irq)

/-- After reset every register but ID reads 0, ID reads HW_ID, FREQ is all 0, the engine is idle and IRQ deasserted:
in the reset state, and after a reset in any state (R54). -/
def Obligations.ResetValues : Prop :=
  ∀ s rest, s.inputs = .reset :: rest →
    ∃ t, step s = .next t ∧
      ∀ u, (u = t ∨ u = State.reset) →
        u.engine = none ∧ u.irq = false ∧ (∀ b, u.tables.freq.at b = 0#64) ∧
        u.readReg .id = 0x0000000750495A48#64 ∧ ∀ r, r ≠ .id → u.readReg r = 0#64

/-- Reset while BUSY abandons the command: it does not complete, no code is recorded, IRQ does not rise; no byte outside
its latched destination range is written, its source range is unchanged, and every other byte of the destination range
of a command that has one is a free value (R231; that only a command that uses the destination range has one is the
model's reading, log entry 6). -/
def Obligations.ResetAbandonsTheCommand : Prop :=
  ∀ s c rest, s.mem.wf → s.engine = some c → s.inputs = .reset :: rest →
    ∃ t, step s = .next t ∧ t.engine = none ∧ t.done = false ∧ t.code = .ok ∧ t.irq = false ∧
      (∀ a, inRange c.ops.dstAddr c.ops.dstCap a = false → t.mem.read a = s.mem.read a) ∧
      (∀ a, inRange c.ops.srcAddr c.ops.srcLen a = true → t.mem.read a = s.mem.read a) ∧
      ∀ i, decode c.word = .ok i → i ∈ [Instr.encode, .decode, .serialize, .compress, .decompress] →
        ∀ a, a < 2 ^ 64 → inRange c.ops.dstAddr c.ops.dstCap a = true →
          inRange c.ops.srcAddr c.ops.srcLen a = false → ∃ n, t.mem.read a = Config.freeByte n

/-! ### The host and the buffers of a command in flight -/

/-- A host write into the source or destination range of a command in flight, or of one whose completion the host has
not seen in STATUS, is the fault BufferRace; with no such command it is a plain write, and outside every such range it
is one too, whatever the registers of a range the command does not use hold (R72, R215, R236; that a command's ranges are those it uses, and that they stay its own until a STATUS read
with BUSY = 0, is the model's reading, log entries 6 and 7). -/
def Obligations.HostWritesRaceOnlyInsideClaimedRanges : Prop :=
  ∀ s a v rest, s.mem.wf → s.inputs = .memWrite a v :: rest →
    (∀ c i, s.engine = some c ∨ c ∈ s.unseen → decode c.word = .ok i →
      (i ∈ [Instr.count, .encode, .decode, .serialize, .deserialize, .compress, .decompress] ∧
          c.ops.srcAddr.toNat ≤ a.toNat ∧ a.toNat < c.ops.srcAddr.toNat + c.ops.srcLen.toNat ∨
        i ∈ [Instr.encode, .decode, .serialize, .compress, .decompress] ∧
          c.ops.dstAddr.toNat ≤ a.toNat ∧ a.toNat < c.ops.dstAddr.toNat + c.ops.dstCap.toNat) →
      step s = .fault .bufferRace) ∧
    ((∀ c i, s.engine = some c ∨ c ∈ s.unseen → decode c.word = .ok i →
        (i ∈ [Instr.count, .encode, .decode, .serialize, .deserialize, .compress, .decompress] →
          inRange c.ops.srcAddr c.ops.srcLen a.toNat = false) ∧
        (i ∈ [Instr.encode, .decode, .serialize, .compress, .decompress] →
          inRange c.ops.dstAddr c.ops.dstCap a.toNat = false)) →
      ∃ t, step s = .next t ∧ t = { s with inputs := rest, mem := t.mem } ∧ t.mem.read a.toNat = v ∧
        ∀ b, b ≠ a.toNat → t.mem.read b = s.mem.read b)

/-- While a command is in flight, whichever it is, a host read of a byte of the source range it uses returns the memory
value, and of one of the destination range it uses, outside its source range, a free value; where the host has seen every
earlier completion, every other byte reads as memory holds it. No read changes memory. Once the host has read STATUS with
BUSY = 0, every byte reads as memory holds it (R71, R72; log entries 6, 8, 17 and 18). -/
def Obligations.HostReadsOfCommandBuffers : Prop :=
  (∀ s c i a rest, s.engine = some c → s.inputs = .memRead a :: rest → decode c.word = .ok i →
    ∃ t, step s = .next t ∧ t.mem = s.mem ∧ t.engine = s.engine ∧
      (i ∈ [Instr.count, .encode, .decode, .serialize, .deserialize, .compress, .decompress] →
        inRange c.ops.srcAddr c.ops.srcLen a.toNat = true → t.hostData = (s.mem.read a.toNat).setWidth 64) ∧
      (i ∈ [Instr.encode, .decode, .serialize, .compress, .decompress] →
        inRange c.ops.dstAddr c.ops.dstCap a.toNat = true → inRange c.ops.srcAddr c.ops.srcLen a.toNat = false →
        ∃ n, t.hostData = (Config.freeByte n).setWidth 64) ∧
      (s.unseen = [] →
        i ∉ [Instr.encode, .decode, .serialize, .compress, .decompress] ∨
          inRange c.ops.dstAddr c.ops.dstCap a.toNat = false →
        t.hostData = (s.mem.read a.toNat).setWidth 64)) ∧
  ∀ s a rest, s.engine = none →
    s.inputs = .busRead (s.platform.regBase + 0x010#64) 8 :: .memRead a :: rest →
    ∃ t u, step s = .next t ∧ step t = .next u ∧ u.hostData = (s.mem.read a.toNat).setWidth 64 ∧ u.mem = s.mem

/-! ### What every command does and leaves alone -/

/-- Every command completes: the engine is idle with DONE set; the four range registers, CTRL, DROP, LAST_OP, the
platform, the pending inputs and the data of the host's last read are unchanged (memory, the tables and the flags are the
next statements'); the command joins those whose completion the host has not seen; the staged registers change only on
OK; RESULT_LEN is 0 on every other code, and ERR_ADDR and ERR_INFO are 0 on a success-class code (R34, R38, R52, R206). -/
def Obligations.EveryCommandCompletesWithThisFrame : Prop :=
  ∀ i s, ∃ t, exec i s = .next t ∧ t.engine = none ∧ t.done = true ∧
    t.irqEn = s.irqEn ∧ t.drop = s.drop ∧ t.lastOp = s.lastOp ∧ t.platform = s.platform ∧ t.inputs = s.inputs ∧
    t.hostData = s.hostData ∧ t.unseen = s.engine.toList ++ s.unseen ∧
    t.cfg = { s.cfg with origLen := t.cfg.origLen } ∧
    (t.code ≠ .ok → t.cfg = s.cfg ∧
      t.res = { s.res with resultLen := 0#64, errAddr := t.res.errAddr, errInfo := t.res.errInfo }) ∧
    (t.code = .ok ∨ t.code = .emptyInput → t.res.errAddr = 0#64 ∧ t.res.errInfo = 0#64)

/-- The completion codes: their numbers, and which commands raise which (R200). -/
def Obligations.EachCommandRaisesItsCodes : Prop :=
  ([Code.ok, .emptyInput, .ioError, .missingCode, .truncatedFile, .malformedTable, .malformedStream, .badCommand,
      .badArgument, .sequenceError, .capacityExceeded].map Code.toByte =
    [0x00#8, 0x01#8, 0x10#8, 0x11#8, 0x12#8, 0x13#8, 0x14#8, 0x20#8, 0x21#8, 0x22#8, 0x23#8]) ∧
  ∀ i s t, exec i s = .next t →
    t.code = .ok ∨
    (t.code = .emptyInput ∧ i ∈ [Instr.buildTree, .compress]) ∨
    (t.code = .ioError ∧
      i ∈ [Instr.count, .encode, .decode, .serialize, .deserialize, .compress, .decompress]) ∨
    (t.code = .missingCode ∧ i ∈ [Instr.encode, .compress]) ∨
    (t.code = .truncatedFile ∧ i ∈ [Instr.deserialize, .decompress]) ∨
    (t.code = .malformedTable ∧ i ∈ [Instr.deserialize, .decompress]) ∨
    (t.code = .malformedStream ∧ i ∈ [Instr.decode, .decompress]) ∨
    (t.code = .badArgument ∧
      i ∈ [Instr.count, .encode, .decode, .serialize, .deserialize, .compress, .decompress]) ∨
    (t.code = .sequenceError ∧ i ∈ [Instr.buildTree, .buildTable, .encode, .decode, .serialize]) ∨
    (t.code = .capacityExceeded ∧ i ∈ [Instr.encode, .decode, .serialize, .compress, .decompress])

/-- Memory after a completion: a command without a destination range, and one that ends with BAD_ARGUMENT,
SEQUENCE_ERROR or EMPTY_INPUT, leaves all of memory as it was; every command leaves every byte outside its destination
range, and every byte of its source range, as it was, and on OK every byte past the RESULT_LEN bytes it wrote; after
another error every destination byte is a free value (R34, R205; that COUNT and DESERIALIZE have no destination bytes
is the model's reading, log entry 6). -/
def Obligations.CommandsWriteOnlyTheirDestination : Prop :=
  ∀ i s t, exec i s = .next t →
    (i ∈ [Instr.nop, .count, .buildTree, .buildTable, .deserialize, .clear] → t.mem = s.mem) ∧
    (t.code = .badArgument ∨ t.code = .sequenceError ∨ t.code = .emptyInput → t.mem = s.mem) ∧
    (∀ a, a < s.operands.dstAddr.toNat ∨ s.operands.dstAddr.toNat + s.operands.dstCap.toNat ≤ a →
      t.mem.read a = s.mem.read a) ∧
    (t.code = .ok → ∀ a, a < s.operands.dstAddr.toNat ∨ s.operands.dstAddr.toNat + t.res.resultLen.toNat ≤ a →
      t.mem.read a = s.mem.read a) ∧
    (∀ a, s.operands.srcAddr.toNat ≤ a → a < s.operands.srcAddr.toNat + s.operands.srcLen.toNat →
      t.mem.read a = s.mem.read a) ∧
    (s.mem.wf → i ∈ [Instr.encode, .decode, .serialize, .compress, .decompress] →
      t.code ∉ [Code.ok, .emptyInput, .badArgument, .sequenceError] →
      ∀ a, s.operands.dstAddr.toNat ≤ a → a < s.operands.dstAddr.toNat + s.operands.dstCap.toNat →
        ∃ n, t.mem.read a = Config.freeByte n)

/-- IO_ERROR names a byte access that fails: a read inside the source range with information 0, or a write inside the
destination range with information 1; a command whose ranges meet no failing access never ends with it (R61, R203). -/
def Obligations.IoErrorNamesAFailingAccess : Prop :=
  ∀ i s t, exec i s = .next t → t.code = .ioError →
    ∃ a, t.res.errAddr = BitVec.ofNat 64 a ∧
      ((t.res.errInfo = 0#64 ∧ s.platform.busOk a .read = false ∧
          s.operands.srcAddr.toNat ≤ a ∧ a < s.operands.srcAddr.toNat + s.operands.srcLen.toNat) ∨
       (t.res.errInfo = 1#64 ∧ s.platform.busOk a .write = false ∧
          s.operands.dstAddr.toNat ≤ a ∧ a < s.operands.dstAddr.toNat + s.operands.dstCap.toNat))

/-- The validity flags after each command and code (R48). An IO_ERROR of COMPRESS by a read is one of its COUNT stage, by
a write one after its three table stages; an IO_ERROR of DECOMPRESS by a read below the payload is one of its
DESERIALIZE stage, any other one of its DECODE stage (R181, R182). -/
def Obligations.ValidityFlagTransitions : Prop :=
  ∀ i s t, exec i s = .next t →
    (t.code = .badArgument ∨ t.code = .sequenceError → t.flags = s.flags) ∧
    (i ∈ [Instr.nop, .encode, .decode, .serialize] → t.flags = s.flags) ∧
    (i = .clear → t.flags = ⟨false, false, false, false⟩) ∧
    (i = .count → t.code = .ok → t.flags = ⟨true, false, false, s.flags.dtableValid⟩) ∧
    (i = .count → t.code = .ioError → t.flags = ⟨false, false, false, s.flags.dtableValid⟩) ∧
    (i = .buildTree → t.code = .ok → t.flags = ⟨s.flags.freqValid, true, false, s.flags.dtableValid⟩) ∧
    (i = .buildTree → t.code = .emptyInput → t.flags = ⟨s.flags.freqValid, false, false, s.flags.dtableValid⟩) ∧
    (i = .buildTable → t.code = .ok → t.flags = { s.flags with etableValid := true }) ∧
    (i = .deserialize → t.code = .ok → t.flags = { s.flags with dtableValid := true }) ∧
    (i = .deserialize → t.code ∈ [Code.ioError, .truncatedFile, .malformedTable] →
      t.flags = { s.flags with dtableValid := false }) ∧
    (i = .compress → t.code = .emptyInput → t.flags = ⟨true, false, false, s.flags.dtableValid⟩) ∧
    (i = .compress → t.code ∈ [Code.ok, .capacityExceeded, .missingCode] →
      t.flags = ⟨true, true, true, s.flags.dtableValid⟩) ∧
    (i = .compress → t.code = .ioError →
      (t.res.errInfo = 0#64 → t.flags = ⟨false, false, false, s.flags.dtableValid⟩) ∧
      (t.res.errInfo ≠ 0#64 → t.flags = ⟨true, true, true, s.flags.dtableValid⟩)) ∧
    (i = .decompress → t.code ∈ [Code.ok, .capacityExceeded, .malformedStream] →
      t.flags = { s.flags with dtableValid := true }) ∧
    (i = .decompress → t.code ∈ [Code.truncatedFile, .malformedTable] →
      t.flags = { s.flags with dtableValid := false }) ∧
    (i = .decompress → t.code = .ioError →
      let payload := s.operands.srcAddr.toNat + 16 + u64le (s.mem.bytes (s.operands.srcAddr.toNat + 8) 8)
      (t.res.errInfo = 0#64 ∧ t.res.errAddr.toNat < payload → t.flags = { s.flags with dtableValid := false }) ∧
      (t.res.errInfo ≠ 0#64 ∨ payload ≤ t.res.errAddr.toNat → t.flags = { s.flags with dtableValid := true }))

/-- Each internal table and each staged register is written only by its own commands (R33, R35-R37, R44-R47). -/
def Obligations.TablesAndResultsWrittenOnlyByTheirCommands : Prop :=
  ∀ i s t, exec i s = .next t →
    (i ∉ [Instr.count, .compress, .clear] → t.tables.freq = s.tables.freq) ∧
    (i ∉ [Instr.buildTree, .compress] → t.tables.nodes = s.tables.nodes ∧ t.tables.root = s.tables.root) ∧
    (i ∉ [Instr.buildTable, .compress] → t.tables.codes = s.tables.codes) ∧
    (i ∉ [Instr.deserialize, .decompress] → t.tables.dt = s.tables.dt) ∧
    (i ∉ [Instr.encode, .compress, .deserialize, .decompress] → t.cfg.origLen = s.cfg.origLen) ∧
    (i ∉ [Instr.encode, .compress] → t.res.payloadBits = s.res.payloadBits) ∧
    (i ∉ [Instr.serialize, .compress, .deserialize, .decompress] → t.res.tableSegLen = s.res.tableSegLen) ∧
    (i ∉ [Instr.deserialize, .decompress] →
      t.res.payloadAddr = s.res.payloadAddr ∧ t.res.payloadLen = s.res.payloadLen)

/-- The pre-checks in their order: an illegal word on the engine's turn; then, for each command, the checks of the
ranges it uses, their overlap, and the flag it needs. The first that fails completes the command and changes nothing
else (R207). -/
def Obligations.PrechecksRunInOrder : Prop :=
  (∀ s c, s.engine = some c →
    (c.word.extractLsb' 8 56 ≠ 0#56 ∨ 0x0A < (c.word.extractLsb' 0 8).toNat) →
    (s.inputs = [] → step s = .next (s.ended .badCommand 0 c.word.toNat 0)) ∧
    ∀ rest, s.inputs = .engine :: rest →
      step s = .next (State.ended { s with inputs := rest } .badCommand 0 c.word.toNat 0)) ∧
  ∀ i (s : State),
    let o := s.operands
    let src := i ∈ [Instr.count, .encode, .decode, .serialize, .deserialize, .compress, .decompress]
    let dst := i ∈ [Instr.encode, .decode, .serialize, .compress, .decompress]
    if src ∧ o.srcLen.toNat > 2 ^ 56 - 1 then exec i s = .next (s.ended .badArgument 0 1 0)
    else if src ∧ o.srcAddr.toNat + o.srcLen.toNat > 2 ^ 64 then exec i s = .next (s.ended .badArgument 0 2 0)
    else if dst ∧ o.dstCap.toNat > 2 ^ 56 - 1 then exec i s = .next (s.ended .badArgument 0 3 0)
    else if dst ∧ o.dstAddr.toNat + o.dstCap.toNat > 2 ^ 64 then exec i s = .next (s.ended .badArgument 0 4 0)
    else if src ∧ dst ∧ o.srcLen.toNat > 0 ∧ o.dstCap.toNat > 0 ∧
        o.srcAddr.toNat < o.dstAddr.toNat + o.dstCap.toNat ∧ o.dstAddr.toNat < o.srcAddr.toNat + o.srcLen.toNat then
      exec i s = .next (s.ended .badArgument 0 5 0)
    else if i = .buildTree ∧ s.flags.freqValid = false then exec i s = .next (s.ended .sequenceError 0 4 0)
    else if i = .buildTable ∧ s.flags.treeValid = false then exec i s = .next (s.ended .sequenceError 0 5 0)
    else if i ∈ [Instr.encode, .serialize] ∧ s.flags.etableValid = false then
      exec i s = .next (s.ended .sequenceError 0 6 0)
    else if i = .decode ∧ s.flags.dtableValid = false then exec i s = .next (s.ended .sequenceError 0 7 0)
    else ∃ t, exec i s = .next t ∧ t.code ≠ .badArgument ∧ t.code ≠ .sequenceError

/-! ### NOP and CLEAR -/

/-- NOP completes OK and changes nothing else; CLEAR completes OK with FREQ all 0 and no flag set, and changes nothing
else (R183, R184). -/
def Obligations.NopAndClearComplete : Prop :=
  ∀ s : State,
    exec .nop s = .next (s.ended .ok 0 0 0) ∧
    exec .clear s = .next (State.ended { s with
      tables := { s.tables with freq := Vector.replicate 256 0#64 }
      flags := ⟨false, false, false, false⟩ } .ok 0 0 0)

/-! ### COUNT -/

/-- An OK COUNT over readable memory: FREQ[s] is the number of source bytes equal to s, the counts add up to the source
length, and at most min(n, 256) of them are not 0; FREQ_VALID is set, TREE_VALID and ETABLE_VALID are cleared, nothing
else changes (R113). -/
def Obligations.CountCountsTheSource : Prop :=
  ∀ s : State, SrcOk s.operands → Readable s.platform s.operands.srcAddr.toNat s.operands.srcLen.toNat →
    ∃ F : Table Word, (∀ b, (F.at b).toNat = s.source.count b) ∧
      totalCount F = s.operands.srcLen.toNat ∧
      distinctSyms F ≤ min s.operands.srcLen.toNat 256 ∧
      exec .count s = .next (State.ended { s with
        tables := { s.tables with freq := F }
        flags := ⟨true, false, false, s.flags.dtableValid⟩ } .ok 0 0 0)

/-- A COUNT whose read of source byte k is the first that fails ends with IO_ERROR at that byte, FREQ all 0 and the
three flags cleared (R111, R112); that all of memory stays as it was is the model's reading of R205 (c), log entry 6. -/
def Obligations.CountReportsTheFirstFailingRead : Prop :=
  ∀ (s : State) k, SrcOk s.operands → k < s.operands.srcLen.toNat →
    Readable s.platform s.operands.srcAddr.toNat k →
    s.platform.busOk (s.operands.srcAddr.toNat + k) .read = false →
    exec .count s = .next (State.ended { s with
      tables := { s.tables with freq := Vector.replicate 256 0#64 }
      flags := ⟨false, false, false, s.flags.dtableValid⟩ } .ioError (s.operands.srcAddr.toNat + k) 0 0)

/-- Counting two chunks apart and adding the counts gives the count of the whole (R112). -/
def Obligations.ChunkedCountingAddsUp : Prop :=
  ∀ (x y : List Byte) b, (countBytes (x ++ y)).at b = (countBytes x).at b + (countBytes y).at b

/-! ### BUILD_TREE and BUILD_TABLE -/

/-- BUILD_TREE over a count with L ≥ 1 symbols completes OK with 2L - 1 nodes and ROOT = 2L - 2, TREE_VALID set and
ETABLE_VALID cleared; over an empty count it ends with EMPTY_INPUT and both cleared; nothing else changes
(R121, R123, R124). Which entries each merge takes is TreeArenaShape's. -/
def Obligations.BuildTreeCompletes : Prop :=
  ∀ s : State, s.flags.freqValid = true →
    (distinctSyms s.tables.freq ≠ 0 →
      (buildNodes s.tables.freq).length = 2 * distinctSyms s.tables.freq - 1 ∧
      exec .buildTree s = .next (State.ended { s with
        tables := { s.tables with
          nodes := buildNodes s.tables.freq, root := 2 * distinctSyms s.tables.freq - 2 }
        flags := ⟨true, true, false, s.flags.dtableValid⟩ } .ok 0 0 0)) ∧
    (distinctSyms s.tables.freq = 0 →
      exec .buildTree s = .next (State.ended { s with
        flags := ⟨true, false, false, s.flags.dtableValid⟩ } .emptyInput 0 0 0))

/-- The queue is kept in increasing order of (key, seq): inserting an entry of a new seq into an ordered queue leaves it
ordered, with exactly that entry more (R121, R122). -/
def Obligations.QueueStaysOrdered : Prop :=
  ∀ (q : Queue) (e : Nat × Nat),
    q.Pairwise (fun x y => x.1 < y.1 ∨ x.1 = y.1 ∧ x.2 < y.2) → (∀ x ∈ q, x.2 ≠ e.2) →
    (Queue.insert q e).Pairwise (fun x y => x.1 < y.1 ∨ x.1 = y.1 ∧ x.2 < y.2) ∧ (Queue.insert q e).Perm (e :: q)

/-- The arena: the first L nodes are the leaves in increasing order of symbol, every later one is internal with two
different children of lower index, and every node but the last is the child of exactly one node. With a leaf's key its
count and an internal node's the sum of its children's keys, each internal node took, of the nodes waiting when it was
created, the one with the least (key, index) as its left child and the next as its right (R121, R122, R125). -/
def Obligations.TreeArenaShape : Prop :=
  ∀ freq : Table Word,
    (buildNodes freq).take (distinctSyms freq) =
      (allBytes.filter fun b => freq.at b != 0#64).map Node.leaf ∧
    (∀ (i : Nat) (n : Node), distinctSyms freq ≤ i → (buildNodes freq)[i]? = some n →
      ∃ l r : Nat, n = .internal l r ∧ l < i ∧ r < i ∧ l ≠ r) ∧
    (∀ j : Nat, j + 1 < (buildNodes freq).length →
      ∃ i : Nat, (∃ l r : Nat, (buildNodes freq)[i]? = some (Node.internal l r) ∧ (l = j ∨ r = j)) ∧
        ∀ i' : Nat, (∃ l r : Nat, (buildNodes freq)[i']? = some (Node.internal l r) ∧ (l = j ∨ r = j)) → i' = i) ∧
    ∃ key : Nat → Nat,
      (∀ (i : Nat) (b : Byte), (buildNodes freq)[i]? = some (Node.leaf b) → key i = (freq.at b).toNat) ∧
      ∀ i l r : Nat, (buildNodes freq)[i]? = some (Node.internal l r) →
        key i = key l + key r ∧ Waiting (buildNodes freq) i l ∧ Waiting (buildNodes freq) i r ∧ PopsFirst key l r ∧
        ∀ j : Nat, Waiting (buildNodes freq) i j → j ≠ l → j ≠ r → PopsFirst key r j

/-- BUILD_TABLE over a valid tree completes OK with the code table of the tree and ETABLE_VALID set, nothing else
changed; of a tree of one leaf s the table is CODE[s] = "0" and no other code (R131, R132). -/
def Obligations.BuildTableCompletes : Prop :=
  ∀ s : State, s.flags.treeValid = true →
    exec .buildTable s = .next (State.ended { s with
      tables := { s.tables with codes := buildCodes s.tables.nodes s.tables.root }
      flags := { s.flags with etableValid := true } } .ok 0 0 0) ∧
    ∀ b, s.tables.nodes = [.leaf b] → s.tables.root = 0 →
      ∀ c, (buildCodes s.tables.nodes s.tables.root).at c = if c = b then [false] else []

/-- With two symbols or more a code is the path from ROOT to its leaf, 0 for a left child and 1 for a right, and every
such path is a code (R130, R131). -/
def Obligations.CodesAreThePathsFromTheRoot : Prop :=
  ∀ freq : Table Word, 2 ≤ distinctSyms freq →
    ∀ b c, c ≠ [] →
      ((buildCodes (buildNodes freq) ((buildNodes freq).length - 1)).at b = c ↔
        follow (buildNodes freq) ((buildNodes freq).length - 1) c = some (.leaf b))

/-- The code table of a count: a symbol is coded exactly if it was counted, no code is longer than 255 bits, no code is
a prefix of another, the codes' weights 2^-len add up to 1 (to 1/2 for a single symbol), and with two symbols or more
a code's length is its leaf's depth (R133). -/
def Obligations.CodeTableLaws : Prop :=
  ∀ freq : Table Word, 1 ≤ distinctSyms freq →
    let codes := buildCodes (buildNodes freq) ((buildNodes freq).length - 1)
    (∀ b, codes.at b ≠ [] ↔ freq.at b ≠ 0#64) ∧
    (allBytes.countP fun b => codes.at b != []) = distinctSyms freq ∧
    (∀ b, (codes.at b).length ≤ 255) ∧
    (∀ b c, b ≠ c → codes.at b ≠ [] → codes.at c ≠ [] → ¬ codes.at b <+: codes.at c) ∧
    ((allBytes.filter fun b => codes.at b != []).map fun b => 2 ^ (255 - (codes.at b).length)).sum =
      (if 2 ≤ distinctSyms freq then 2 ^ 255 else 2 ^ 254) ∧
    (2 ≤ distinctSyms freq → ∀ b, codes.at b ≠ [] →
      ∃ path, follow (buildNodes freq) ((buildNodes freq).length - 1) path = some (.leaf b) ∧
        (codes.at b).length = path.length)

/-! ### Bits, bytes and ENCODE -/

/-- Stream bit k is bit 7 - (k mod 8) of payload byte k / 8; the payload has ceil(|S| / 8) bytes and its pad bits are 0
(R64, R90). -/
def Obligations.PayloadIsPackedMsbFirst : Prop :=
  ∀ S : Bits, (pack S).length = (S.length + 7) / 8 ∧
    ∀ k, ((pack S).getD (k / 8) 0#8).getLsbD (7 - k % 8) = S.getD k false

/-- `le64` puts bits 8i+7..8i into byte i and `u64le` reads them back, both ways (R10, R63). -/
def Obligations.HeaderIntegersAreLittleEndian : Prop :=
  (∀ v : Word, (le64 v).length = 8 ∧ (∀ i, i < 8 → (le64 v).getD i 0#8 = v.extractLsb' (8 * i) 8) ∧
    u64le (le64 v) = v.toNat) ∧
  ∀ bs : List Byte, bs.length = 8 → u64le bs < 2 ^ 64 ∧ le64 (BitVec.ofNat 64 (u64le bs)) = bs

/-- An ENCODE that meets no error: the packed codes of the source bytes are written to the destination, ORIG_LEN,
PAYLOAD_BITS and RESULT_LEN tell its lengths, nothing else changes (R141). -/
def Obligations.EncodeWritesThePackedCodes : Prop :=
  ∀ s : State, SrcOk s.operands → DstOk s.operands → Apart s.operands → s.flags.etableValid = true →
    Readable s.platform s.operands.srcAddr.toNat s.operands.srcLen.toNat →
    (∀ b ∈ s.source, s.tables.codes.at b ≠ []) →
    let S := codedStream s.tables.codes s.source
    (S.length + 7) / 8 ≤ s.operands.dstCap.toNat →
    Writable s.platform s.operands.dstAddr.toNat ((S.length + 7) / 8) →
    exec .encode s = .next (State.ended { s with
      mem := s.mem.writeAll s.operands.dstAddr.toNat (pack S)
      cfg := { s.cfg with origLen := s.operands.srcLen }
      res := { s.res with payloadBits := BitVec.ofNat 64 S.length } } .ok 0 0 ((S.length + 7) / 8))

/-- ENCODE stops at the first source byte without a code, with its address and value, whatever follows; an ENCODE
whose output does not fit ends with CAPACITY_EXCEEDED and the bytes needed (R141, R208, R209). Only destination bytes
and the model's count of draws may differ besides. -/
def Obligations.EncodeErrors : Prop :=
  ∀ s : State, SrcOk s.operands → DstOk s.operands → Apart s.operands → s.flags.etableValid = true →
    (∀ k, k < s.operands.srcLen.toNat → Readable s.platform s.operands.srcAddr.toNat (k + 1) →
      (∀ j, j < k → s.tables.codes.at (s.mem.read (s.operands.srcAddr.toNat + j)) ≠ []) →
      s.tables.codes.at (s.mem.read (s.operands.srcAddr.toNat + k)) = [] →
      ∃ m n, s.DstOnly m ∧ exec .encode s = .next (State.ended { s with mem := m, draws := n } .missingCode
        (s.operands.srcAddr.toNat + k) (s.mem.read (s.operands.srcAddr.toNat + k)).toNat 0)) ∧
    (Readable s.platform s.operands.srcAddr.toNat s.operands.srcLen.toNat →
      (∀ b ∈ s.source, s.tables.codes.at b ≠ []) →
      s.operands.dstCap.toNat < ((codedStream s.tables.codes s.source).length + 7) / 8 →
      ∃ m n, s.DstOnly m ∧ exec .encode s = .next (State.ended { s with mem := m, draws := n } .capacityExceeded
        s.operands.dstAddr.toNat (((codedStream s.tables.codes s.source).length + 7) / 8) 0))

/-- The bit length of an input under a code table is the sum of FREQ times CLEN over its count (R144). -/
def Obligations.PayloadBitsAreCountsTimesLengths : Prop :=
  ∀ (codes : Table Bits) (x : List Byte), x.length ≤ Config.maxLen →
    (codedStream codes x).length = (allBytes.map fun b =>
      ((countBytes x).at b).toNat * (codes.at b).length).sum

/-! ### DECODE -/

/-- DECODE of a payload that begins with the codes of a sequence of entries of the decoding table, as many as ORIG_LEN
says: their symbols are written to the destination, whatever follows the last code; nothing else changes
(R151, R152, R155, R156). -/
def Obligations.DecodeWritesTheSymbols : Prop :=
  ∀ (s : State) (es : List DtEntry), SrcOk s.operands → DstOk s.operands → Apart s.operands →
    s.flags.dtableValid = true → DtSound s.tables.dt →
    (∀ e ∈ es, e ∈ s.tables.dt) → s.operands.origLen.toNat = es.length →
    es.flatMap DtEntry.code <+: payloadStream s.mem s.operands.srcAddr.toNat s.operands.srcLen.toNat →
    es.length ≤ s.operands.dstCap.toNat →
    Readable s.platform s.operands.srcAddr.toNat (((es.flatMap DtEntry.code).length + 7) / 8) →
    Writable s.platform s.operands.dstAddr.toNat es.length →
    exec .decode s = .next (State.ended { s with
      mem := s.mem.writeAll s.operands.dstAddr.toNat (es.map DtEntry.sym) } .ok 0 0 es.length)

/-- DECODE of nothing completes OK and reads and writes nothing, even with an empty table; a DECODE of more bytes than
the destination holds ends with CAPACITY_EXCEEDED and the bytes needed, only destination bytes and the model's count of
draws changed besides (R151, R208). -/
def Obligations.DecodeOfNothingAndOfTooMuch : Prop :=
  ∀ s : State, SrcOk s.operands → DstOk s.operands → Apart s.operands → s.flags.dtableValid = true →
    (s.operands.origLen = 0#64 → exec .decode s = .next (s.ended .ok 0 0 0)) ∧
    (s.operands.dstCap.toNat < s.operands.origLen.toNat →
      ∃ m n, s.DstOnly m ∧ exec .decode s = .next (State.ended { s with mem := m, draws := n } .capacityExceeded
        s.operands.dstAddr.toNat s.operands.origLen.toNat 0))

/-- After the codes of fewer entries than ORIG_LEN asks for, a payload whose last bits begin with no code and are fewer
than the longest code has is MALFORMED_STREAM at its end, all its bits consumed; one that goes on with as many bits as
the longest code has, none of the codes beginning them, is MALFORMED_STREAM at the byte of the last of those bits; with an
empty table any payload is MALFORMED_STREAM at its first byte, no bit consumed. Only destination bytes and the model's
count of draws change besides (R151, R153). -/
def Obligations.DecodeOfABadPayloadIsMalformed : Prop :=
  ∀ (s : State) (es : List DtEntry) (tail : Bits), SrcOk s.operands → DstOk s.operands → Apart s.operands →
    s.flags.dtableValid = true → DtSound s.tables.dt → (∀ e ∈ es, e ∈ s.tables.dt) →
    es.length < s.operands.origLen.toNat → s.operands.origLen.toNat ≤ s.operands.dstCap.toNat →
    let bits := es.flatMap DtEntry.code ++ tail
    let payload := payloadStream s.mem s.operands.srcAddr.toNat s.operands.srcLen.toNat
    let noBusError := Readable s.platform s.operands.srcAddr.toNat s.operands.srcLen.toNat ∧
      Writable s.platform s.operands.dstAddr.toNat es.length
    let malformed := fun addr info => ∃ m n, s.DstOnly m ∧
      exec .decode s = .next (State.ended { s with mem := m, draws := n } .malformedStream addr info 0)
    (noBusError → (∃ e ∈ s.tables.dt, tail.length < e.code.length) → (∀ e ∈ s.tables.dt, ¬ e.code <+: tail) →
      bits = payload → malformed (s.operands.srcAddr.toNat + s.operands.srcLen.toNat) (8 * s.operands.srcLen.toNat)) ∧
    (noBusError → (∃ e ∈ s.tables.dt, e.code.length = tail.length) →
      (∀ e ∈ s.tables.dt, e.code.length ≤ tail.length ∧ ¬ e.code <+: tail) → bits <+: payload →
      malformed (s.operands.srcAddr.toNat + (bits.length - 1) / 8) bits.length) ∧
    (s.tables.dt = [] → malformed s.operands.srcAddr.toNat 0)

/-! ### SERIALIZE and DESERIALIZE -/

/-- A SERIALIZE that meets no error writes the header, the segment of the code table and the source bytes; TABLE_SEG_LEN
and RESULT_LEN tell the lengths; one whose output does not fit ends with CAPACITY_EXCEEDED (R161). -/
def Obligations.SerializeWritesTheContainer : Prop :=
  ∀ s : State, SrcOk s.operands → DstOk s.operands → Apart s.operands → s.flags.etableValid = true →
    let seg := segBytes s.tables.codes
    let total := 16 + seg.length + s.operands.srcLen.toNat
    (total ≤ s.operands.dstCap.toNat →
      Readable s.platform s.operands.srcAddr.toNat s.operands.srcLen.toNat →
      Writable s.platform s.operands.dstAddr.toNat total →
      exec .serialize s = .next (State.ended { s with
        mem := s.mem.writeAll s.operands.dstAddr.toNat
          (le64 s.operands.origLen ++ le64 (BitVec.ofNat 64 seg.length) ++ seg ++ s.source)
        res := { s.res with tableSegLen := BitVec.ofNat 64 seg.length } } .ok 0 0 total)) ∧
    (s.operands.dstCap.toNat < total →
      ∃ m n, s.DstOnly m ∧ exec .serialize s = .next (State.ended { s with mem := m, draws := n } .capacityExceeded
        s.operands.dstAddr.toNat total 0))

/-- DESERIALIZE of a container of any entries with distinct symbols and prefix-free codes of 1 to 255 bits, in any
order, an empty one only with original length 0: DT holds the entries in segment order and the registers tell the
container's lengths; the payload is not read (R164, R167, R168, R170). -/
def Obligations.DeserializeReadsTheEntries : Prop :=
  ∀ (s : State) (es : List DtEntry) (orig : Word), SrcOk s.operands → DtSound es → (es = [] → orig = 0#64) →
    let n := (entriesBytes es).length
    16 + n ≤ s.operands.srcLen.toNat →
    s.mem.bytes s.operands.srcAddr.toNat (16 + n) = le64 orig ++ le64 (BitVec.ofNat 64 n) ++ entriesBytes es →
    Readable s.platform s.operands.srcAddr.toNat (16 + n) →
    exec .deserialize s = .next (State.ended { s with
      tables := { s.tables with dt := es }
      flags := { s.flags with dtableValid := true }
      cfg := { s.cfg with origLen := orig }
      res := { s.res with
        tableSegLen := BitVec.ofNat 64 n
        payloadAddr := BitVec.ofNat 64 (s.operands.srcAddr.toNat + 16 + n)
        payloadLen := BitVec.ofNat 64 (s.operands.srcLen.toNat - 16 - n) } } .ok 0 0 0)

/-- DESERIALIZE's header checks. A container shorter than 16 bytes, or than its header's segment length says, is
TRUNCATED_FILE with the length it would need, saturated (R163). A segment of length 0 is accepted with original length
0, DT becoming empty; with a greater one it is MALFORMED_TABLE, reason 7 (R165). That an error leaves all of memory as it
was is the model's reading of R205 (c), log entry 6. -/
def Obligations.DeserializeChecksTheHeader : Prop :=
  ∀ s : State, SrcOk s.operands →
    let o := s.operands
    let orig := u64le (s.mem.bytes o.srcAddr.toNat 8)
    let seg := u64le (s.mem.bytes (o.srcAddr.toNat + 8) 8)
    let failed := { s with flags := { s.flags with dtableValid := false } }
    (o.srcLen.toNat < 16 → exec .deserialize s =
      .next (failed.ended .truncatedFile (o.srcAddr.toNat + o.srcLen.toNat) 16 0)) ∧
    (16 ≤ o.srcLen.toNat → Readable s.platform o.srcAddr.toNat 16 →
      (o.srcLen.toNat - 16 < seg → exec .deserialize s =
        .next (failed.ended .truncatedFile (o.srcAddr.toNat + o.srcLen.toNat) (min (16 + seg) (2 ^ 64 - 1)) 0)) ∧
      (seg = 0 → orig = 0 →
        ∃ t, exec .deserialize s = .next t ∧ t.code = .ok ∧ t.tables.dt = [] ∧ t.flags.dtableValid = true) ∧
      (seg = 0 → 0 < orig → exec .deserialize s =
        .next (failed.ended .malformedTable (o.srcAddr.toNat + 16) 7 0)))

/-- The reasons 1 to 6 of MALFORMED_TABLE, each at its address: a segment that begins with sound entries, each with its
separator, and goes on with `tail` (R168, R169). That all of memory stays as it was is the model's reading of R205 (c),
log entry 6. -/
def Obligations.MalformedTablesAreReportedByReason : Prop :=
  ∀ (s : State) (es : List DtEntry) (orig : Word) (tail : List Byte), SrcOk s.operands → DtSound es →
    let good := es.flatMap fun e => segEntry e.sym e.code ++ [0x00#8]
    let n := good.length + tail.length
    let p := s.operands.srcAddr.toNat + 16 + good.length
    16 + n ≤ s.operands.srcLen.toNat →
    s.mem.bytes s.operands.srcAddr.toNat (16 + n) = le64 orig ++ le64 (BitVec.ofNat 64 n) ++ good ++ tail →
    Readable s.platform s.operands.srcAddr.toNat (16 + n) →
    let malformed := fun (addr reason : Nat) => exec .deserialize s = .next (State.ended
      { s with flags := { s.flags with dtableValid := false } } .malformedTable addr reason 0)
    (∀ (sym : Byte) (code : Bits) (c : Byte) rest, tail = segEntry sym code ++ c :: rest → code.length ≤ 255 →
      c ≠ 0x00#8 → c ≠ 0x30#8 → c ≠ 0x31#8 → malformed (p + 1 + code.length) 1) ∧
    (∀ (sym : Byte) rest, (tail = [sym] ∨ tail = sym :: 0x00#8 :: rest) → malformed (p + 1) 2) ∧
    (∀ (sym : Byte) (code : Bits) rest, tail = segEntry sym code ++ rest → code.length = 256 →
      malformed (p + 256) 3) ∧
    (∀ (sym : Byte) (code : Bits) rest, (tail = segEntry sym code ∨ tail = segEntry sym code ++ 0x00#8 :: rest) →
      1 ≤ code.length → code.length ≤ 255 →
      (sym ∈ es.map DtEntry.sym → malformed p 4) ∧
      (sym ∉ es.map DtEntry.sym → (∃ e ∈ es, e.code <+: code ∨ code <+: e.code) → malformed p 5)) ∧
    (tail = [] → es ≠ [] → malformed p 6)

/-- The segment written for the code table of any count parses, without error, into exactly its coded symbols and their
codes, in increasing order of symbol (R172). -/
def Obligations.WrittenSegmentParsesBack : Prop :=
  ∀ (freq : Table Word) (p : Platform) (m : Memory) (base : Nat), 1 ≤ distinctSyms freq →
    let codes := buildCodes (buildNodes freq) ((buildNodes freq).length - 1)
    m.bytes base (segBytes codes).length = segBytes codes → Readable p base (segBytes codes).length →
    parseSegment p m base (segBytes codes).length = .ok (codedEntries codes)

/-! ### COMPRESS and DECOMPRESS -/

/-- A COMPRESS of a source of at least one byte, all of it readable: the count, the tree and the code table of the source
stay; if the container fits and can be written, the header, the segment of the code table and the packed codes of the
source are written and the registers tell the lengths; if it does not fit, CAPACITY_EXCEEDED with the bytes needed
(R181). -/
def Obligations.CompressWritesTheContainer : Prop :=
  ∀ s : State, SrcOk s.operands → DstOk s.operands → Apart s.operands → 1 ≤ s.operands.srcLen.toNat →
    Readable s.platform s.operands.srcAddr.toNat s.operands.srcLen.toNat →
    let freq := countBytes s.source
    let codes := buildCodes (buildNodes freq) ((buildNodes freq).length - 1)
    let seg := segBytes codes
    let S := codedStream codes s.source
    let total := 16 + seg.length + (S.length + 7) / 8
    let built := { s with
      tables := { s.tables with
        freq := freq, nodes := buildNodes freq, root := (buildNodes freq).length - 1, codes := codes }
      flags := ⟨true, true, true, s.flags.dtableValid⟩ }
    (total ≤ s.operands.dstCap.toNat → Writable s.platform s.operands.dstAddr.toNat total →
      exec .compress s = .next (State.ended { built with
        mem := s.mem.writeAll s.operands.dstAddr.toNat
          (le64 s.operands.srcLen ++ le64 (BitVec.ofNat 64 seg.length) ++ seg ++ pack S)
        cfg := { s.cfg with origLen := s.operands.srcLen }
        res := { s.res with
          payloadBits := BitVec.ofNat 64 S.length
          tableSegLen := BitVec.ofNat 64 seg.length } } .ok 0 0 total)) ∧
    (s.operands.dstCap.toNat < total →
      ∃ m n, s.DstOnly m ∧ exec .compress s = .next (State.ended { built with mem := m, draws := n } .capacityExceeded
        s.operands.dstAddr.toNat total 0))

/-- COMPRESS of an empty source ends with EMPTY_INPUT and writes nothing; of the tables it leaves an empty count
(R180, R181, R186). -/
def Obligations.CompressOfNothingIsEmptyInput : Prop :=
  ∀ s : State, SrcOk s.operands → DstOk s.operands → s.operands.srcLen = 0#64 →
    exec .compress s = .next (State.ended { s with
      tables := { s.tables with freq := Vector.replicate 256 0#64 }
      flags := ⟨true, false, false, s.flags.dtableValid⟩ } .emptyInput 0 0 0)

/-- DECOMPRESS of a container whose segment lists sound entries and whose payload begins with the codes of as many of
them as the header says: their symbols are written to the destination, DT holds the entries, and the registers tell the
container's lengths (R182). -/
def Obligations.DecompressWritesTheSymbols : Prop :=
  ∀ (s : State) (dt es : List DtEntry) (orig : Word), SrcOk s.operands → DstOk s.operands → Apart s.operands →
    DtSound dt → (dt = [] → orig = 0#64) → (∀ e ∈ es, e ∈ dt) → orig.toNat = es.length →
    let n := (entriesBytes dt).length
    let pa := s.operands.srcAddr.toNat + 16 + n
    let pl := s.operands.srcLen.toNat - 16 - n
    16 + n ≤ s.operands.srcLen.toNat →
    s.mem.bytes s.operands.srcAddr.toNat (16 + n) = le64 orig ++ le64 (BitVec.ofNat 64 n) ++ entriesBytes dt →
    es.flatMap DtEntry.code <+: payloadStream s.mem pa pl →
    es.length ≤ s.operands.dstCap.toNat →
    Readable s.platform s.operands.srcAddr.toNat s.operands.srcLen.toNat →
    Writable s.platform s.operands.dstAddr.toNat es.length →
    exec .decompress s = .next (State.ended { s with
      mem := s.mem.writeAll s.operands.dstAddr.toNat (es.map DtEntry.sym)
      tables := { s.tables with dt := dt }
      flags := { s.flags with dtableValid := true }
      cfg := { s.cfg with origLen := orig }
      res := { s.res with
        tableSegLen := BitVec.ofNat 64 n
        payloadAddr := BitVec.ofNat 64 pa
        payloadLen := BitVec.ofNat 64 pl } } .ok 0 0 es.length)

/-- Staged equivalence. (a) COMPRESS writes the same container, and leaves the same tables, as COUNT, BUILD_TREE,
BUILD_TABLE, ENCODE into a buffer and SERIALIZE from it. (b) DECOMPRESS writes the same bytes as DESERIALIZE, then
DECODE of the payload range and length it reports (R185). The stages are meanings at idle states; that they then take
the configuration registers as operands is the model's choice, log entry 10. -/
def Obligations.PipelinesEqualTheirStages : Prop :=
  (∀ s t s1 s2 s3 s4 s5 buf cap, s.mem.wf → s.engine = none → 1 ≤ s.cfg.srcLen.toNat →
    exec .compress s = .next t → t.code = .ok →
    exec .count s = .next s1 → s1.code = .ok →
    exec .buildTree s1 = .next s2 → s2.code = .ok →
    exec .buildTable s2 = .next s3 → s3.code = .ok →
    exec .encode { s3 with cfg := { s3.cfg with dstAddr := buf, dstCap := cap } } = .next s4 → s4.code = .ok →
    exec .serialize { s4 with cfg := { s4.cfg with
      srcAddr := buf, srcLen := s4.res.resultLen, dstAddr := s.cfg.dstAddr, dstCap := s.cfg.dstCap } } = .next s5 →
    s5.code = .ok →
    s5.res.resultLen = t.res.resultLen ∧ s5.tables = t.tables ∧
    s5.mem.bytes s.cfg.dstAddr.toNat t.res.resultLen.toNat = t.mem.bytes s.cfg.dstAddr.toNat t.res.resultLen.toNat) ∧
  ∀ s t, s.engine = none → exec .decompress s = .next t → t.code = .ok →
    ∃ u v, exec .deserialize s = .next u ∧ u.code = .ok ∧
      exec .decode { u with cfg := { u.cfg with
        srcAddr := u.res.payloadAddr, srcLen := u.res.payloadLen } } = .next v ∧ v.code = .ok ∧
      v.mem = t.mem ∧ v.res.resultLen = t.res.resultLen

/-- Round trip: whatever COMPRESS makes of a source of at least one byte, a DECOMPRESS of that container, wherever it
lies, gives the source back (R186). -/
def Obligations.DecompressOfCompressIsTheSource : Prop :=
  ∀ s t u : State, s.mem.wf → exec .compress s = .next t → t.code = .ok →
    u.mem.wf → SrcOk u.operands → DstOk u.operands → Apart u.operands →
    u.operands.srcLen = t.res.resultLen →
    u.source = t.mem.bytes s.operands.dstAddr.toNat t.res.resultLen.toNat →
    s.operands.srcLen.toNat ≤ u.operands.dstCap.toNat →
    Readable u.platform u.operands.srcAddr.toNat u.operands.srcLen.toNat →
    Writable u.platform u.operands.dstAddr.toNat s.operands.srcLen.toNat →
    ∃ v, exec .decompress u = .next v ∧ v.code = .ok ∧ v.res.resultLen = s.operands.srcLen ∧
      v.mem.bytes u.operands.dstAddr.toNat s.operands.srcLen.toNat = s.source

/-- Truncation: DECOMPRESS of a proper beginning of such a container never gives an output: it ends with TRUNCATED_FILE
where the header or the segment is cut, and with MALFORMED_STREAM at the end of the container where the payload is
(R186). -/
def Obligations.TruncatedContainersNeverDecompress : Prop :=
  ∀ s t u : State, s.mem.wf → exec .compress s = .next t → t.code = .ok →
    SrcOk u.operands → DstOk u.operands → Apart u.operands →
    u.operands.srcLen.toNat < t.res.resultLen.toNat →
    u.source = t.mem.bytes s.operands.dstAddr.toNat u.operands.srcLen.toNat →
    s.operands.srcLen.toNat ≤ u.operands.dstCap.toNat →
    Readable u.platform u.operands.srcAddr.toNat u.operands.srcLen.toNat →
    Writable u.platform u.operands.dstAddr.toNat s.operands.srcLen.toNat →
    ∃ v, exec .decompress u = .next v ∧
      v.res.errAddr = BitVec.ofNat 64 (u.operands.srcAddr.toNat + u.operands.srcLen.toNat) ∧
      v.code = if u.operands.srcLen.toNat < 16 + t.res.tableSegLen.toNat then .truncatedFile else .malformedStream

/-! ### Invariants and progress -/

/-- Every step keeps memory in its canonical form: the model's own form of system memory (R60, R62; log entry 1). -/
def Obligations.StepKeepsMemoryCanonical : Prop :=
  ∀ s t, s.mem.wf → step s = .next t → t.mem.wf

/-- Every step keeps this: while a command is in flight, the latched operands are the configuration registers, DONE and
CODE are 0 and LAST_OP is the command's (R26, R50, R51). -/
def Obligations.StepKeepsTheLatchSound : Prop :=
  ∀ s t, s.LatchSound → step s = .next t → t.LatchSound

/-- Every step keeps what the validity flags say of the tables: a valid tree is that of FREQ, a valid code table that of
the tree, and the counts add up to at most MAX_LEN (R26, R44, R48). -/
def Obligations.StepKeepsTheTablesSound : Prop :=
  ∀ s t, s.TablesSound → step s = .next t → t.TablesSound

/-- The decoding table's invariants, after an OK DESERIALIZE of any container: at most 256 entries, distinct symbols,
codes of 1 to 255 bits, none a prefix of another; DTN = 0 only when ORIG_LEN = 0 (R171). Every step keeps them while
DTABLE_VALID is set; that every step keeps them whatever the flag rests on the model's choice to make the table empty at
a reset (log entry 2). -/
def Obligations.DecodingTableStaysSound : Prop :=
  (∀ s t, exec .deserialize s = .next t → t.code = .ok →
    DtSound t.tables.dt ∧ (t.tables.dt = [] → t.cfg.origLen = 0#64)) ∧
  (∀ s t, (s.flags.dtableValid = true → DtSound s.tables.dt) → step s = .next t →
    t.flags.dtableValid = true → DtSound t.tables.dt) ∧
  ∀ s t, DtSound s.tables.dt → step s = .next t → DtSound t.tables.dt

/-- The reset state is sound. That the decoding table is sound at reset rests on the model's choice to make it empty
(log entry 2). -/
def Obligations.ResetIsSound : Prop := State.reset.Sound

/-- Every command in flight reaches completion if no reset is among the inputs: it stays in flight up to some step, and
that step leaves the engine idle with DONE set and LAST_OP as it was, or is the first of the run to stop, with the host's
own race or refused access (R14, R52, R241; log entry 5). -/
def Obligations.EveryIssuedCommandCompletes : Prop :=
  ∀ s c, s.engine = some c → Input.reset ∉ s.inputs →
    ∃ k, (∀ j < k, ∃ u : State, Sys2Proof.core.run j s = .next u ∧ u.engine = some c) ∧
      ((∃ t : State, Sys2Proof.core.run k s = .next t ∧ t.engine = none ∧ t.done = true ∧ t.lastOp = s.lastOp) ∨
        Sys2Proof.core.run k s = .fault Fault.bufferRace ∨
        Sys2Proof.core.run k s = .refused Refusal.refusedAccess)
end

