-- ==== Sys2Proof/Laws/Checks.lean ====
section
/-! SUPPORT. The laws of the pre-checks (60_exceptions.md R207) and of the operation every meaning goes through,
`checked`. -/

namespace Sys2Proof.Machine

variable {i : Instr} {f : Flags} {o : Operands} {s t : State} {rule : Operands → State}

@[simp] theorem checkSrc_eq_none : checkSrc o = none ↔ SrcOk o := by
  simp only [checkSrc, SrcOk, Config.addrSpace]
  split
  · simp; omega
  · split <;> simp <;> omega

@[simp] theorem checkDst_eq_none : checkDst o = none ↔ DstOk o := by
  simp only [checkDst, DstOk, Config.addrSpace]
  split
  · simp; omega
  · split <;> simp <;> omega

@[simp] theorem checkOverlap_eq_none : checkOverlap o = none ↔ Apart o := by
  simp only [checkOverlap, Apart]
  split <;> simp <;> omega

@[simp] theorem checkFlag_eq_none : checkFlag i f = none ↔ ∀ k, needsFlag i = some k → f.bit k = true := by
  unfold checkFlag
  cases needsFlag i <;> simp

/-- The pre-checks pass exactly when each of them does (R207). -/
theorem precheck_eq_none :
    precheck i f o = none ↔
      (usesSrc i = true → SrcOk o) ∧ (usesDst i = true → DstOk o) ∧
      (usesSrc i = true → usesDst i = true → Apart o) ∧ ∀ k, needsFlag i = some k → f.bit k = true := by
  unfold precheck
  cases hs : usesSrc i <;> cases hd : usesDst i <;> simp [Option.or_eq_none_iff]

/-- A command whose pre-checks pass runs its rule. -/
theorem checked_ok (h : precheck i s.flags s.operands = none) : checked i s rule = .next (rule s.operands) := by
  simp [checked, h]

/-- A command whose pre-checks fail ends with the first that does. -/
theorem checked_error {e : Raise} (h : precheck i s.flags s.operands = some e) :
    checked i s rule = .next (s.raise e) := by
  simp [checked, h]

/-- What `checked` can answer: a pre-check error's completion, or the rule's, with the ranges in order. -/
theorem checked_cases (h : checked i s rule = .next t) :
    (∃ e, precheck i s.flags s.operands = some e ∧ t = s.raise e) ∨
    (precheck i s.flags s.operands = none ∧ t = rule s.operands) := by
  unfold checked at h
  split at h
  · exact .inl ⟨_, ‹_›, by simpa using h.symm⟩
  · exact .inr ⟨‹_›, by simpa using h.symm⟩

/-- A pre-check error is one of the two codes of R207, recorded with address 0. -/
theorem precheck_code {e : Raise} (h : precheck i f o = some e) :
    (e.code = .badArgument ∨ e.code = .sequenceError) ∧ e.addr = 0 := by
  unfold precheck at h
  simp only [Option.or_eq_some_iff] at h
  rcases h with h | ⟨-, h | ⟨-, h | ⟨-, h⟩⟩⟩
  · split at h
    · unfold checkSrc at h; split at h
      · cases h; simp
      · split at h <;> cases h; simp
    · cases h
  · split at h
    · unfold checkDst at h; split at h
      · cases h; simp
      · split at h <;> cases h; simp
    · cases h
  · split at h
    · unfold checkOverlap at h; split at h <;> cases h; simp
    · cases h
  · unfold checkFlag at h
    split at h
    · cases h
    · split at h <;> cases h; simp

/-! ### The host and the buffers of a command -/

/-- A source byte of the command in flight is never open (R72 (c)). -/
theorem openRead_source {c : Latched} {a : Nat} (h : s.engine = some c) (ha : c.inSrc a = true) :
    s.openRead a = false := by simp [State.openRead, h, ha]

/-- A destination byte of the command in flight that is no source byte of it is open (R72 (b)). -/
theorem openRead_destination {c : Latched} {a : Nat} (h : s.engine = some c) (hs : c.inSrc a = false)
    (hd : c.inDst a = true) : s.openRead a = true := by simp [State.openRead, State.claims, h, hs, hd]

/-- No byte outside the destination ranges of the commands the host must leave alone is open (R72 (d)). -/
theorem openRead_outside {a : Nat} (h : ∀ c ∈ s.claims, c.inDst a = false) : s.openRead a = false := by
  simp only [State.openRead, Bool.and_eq_false_iff]
  refine .inr (List.any_eq_false.2 fun c hc => ?_)
  simp [h c hc]

/-- No host write outside the ranges of those commands races (R72 (d)). -/
theorem races_outside {a : Nat} (h : ∀ c ∈ s.claims, c.inSrc a = false ∧ c.inDst a = false) : s.races a = false := by
  simp only [State.races]
  refine List.any_eq_false.2 fun c hc => ?_
  simp [h c hc]

end Sys2Proof.Machine
end

