-- ==== Sys2Proof/Laws/Memory.lean ====
section
/-! SUPPORT. The laws of system memory: a read after a write, what a write leaves alone, and that every memory
operation keeps the canonical form. -/

namespace Sys2Proof.Machine

@[simp] theorem Memory.read_nil (a : Nat) : Memory.read [] a = Config.blankByte := rfl

theorem Memory.wf_nil : Memory.wf [] := by simp [Memory.wf]

theorem Memory.wf_cons {k : Nat} {w : Byte} {m : Memory} (h : Memory.wf ((k, w) :: m)) :
    m.wf ∧ w ≠ Config.blankByte ∧ k < Config.addrSpace ∧ ∀ c ∈ m, k < c.1 := by
  obtain ⟨hp, hc⟩ := h
  rw [List.pairwise_cons] at hp
  exact ⟨⟨hp.2, fun c hm => hc c (List.mem_cons_of_mem _ hm)⟩, (hc _ List.mem_cons_self).1,
    (hc _ List.mem_cons_self).2, hp.1⟩

/-- Below the first listed address every byte is blank. -/
theorem Memory.read_of_all_gt {m : Memory} {a : Nat} (h : ∀ c ∈ m, a < c.1) : m.read a = Config.blankByte := by
  induction m with
  | nil => rfl
  | cons c m ih =>
    obtain ⟨k, w⟩ := c
    have hk : a < k := h (k, w) List.mem_cons_self
    rw [Memory.read, if_neg (by omega)]
    exact ih fun c hm => h c (List.mem_cons_of_mem _ hm)

theorem Memory.read_write_other (m : Memory) {a b : Nat} (v : Byte) (h : a ≠ b) :
    (m.write a v).read b = m.read b := by
  induction m with
  | nil => unfold Memory.write; split <;> simp [Memory.read, h]
  | cons c m ih =>
    obtain ⟨k, w⟩ := c
    unfold Memory.write
    split
    · split <;> simp [Memory.read, h]
    · split
      · subst_vars; split <;> simp [Memory.read, h]
      · simp [Memory.read, ih]

theorem Memory.read_write_same {m : Memory} (hm : m.wf) (a : Nat) (v : Byte) : (m.write a v).read a = v := by
  induction m with
  | nil => unfold Memory.write; split <;> simp_all [Memory.read]
  | cons c m ih =>
    obtain ⟨k, w⟩ := c
    obtain ⟨hw, -, -, hk⟩ := Memory.wf_cons hm
    unfold Memory.write
    split
    · rename_i hlt
      split
      · subst_vars
        exact Memory.read_of_all_gt (m := (k, w) :: m) (by
          intro c hc
          rcases List.mem_cons.1 hc with rfl | hc
          · exact hlt
          · exact Nat.lt_trans hlt (hk c hc))
      · simp [Memory.read]
    · split
      · rename_i heq; subst heq
        split
        · subst_vars; exact Memory.read_of_all_gt hk
        · simp [Memory.read]
      · rename_i hne
        simp [Memory.read, Ne.symm hne, ih hw]

theorem Memory.read_write {m : Memory} (hm : m.wf) (a b : Nat) (v : Byte) :
    (m.write a v).read b = if a = b then v else m.read b := by
  split
  · subst_vars; exact Memory.read_write_same hm _ v
  · exact Memory.read_write_other m v ‹_›

/-- Every cell of a written memory is the new one or an old one. -/
theorem Memory.mem_write {m : Memory} {a : Nat} {v : Byte} {c : Host.Cell} (h : c ∈ m.write a v) :
    (c = (a, v) ∧ v ≠ Config.blankByte) ∨ c ∈ m := by
  induction m with
  | nil => unfold Memory.write at h; split at h <;> simp_all
  | cons d m ih =>
    obtain ⟨k, w⟩ := d
    unfold Memory.write at h
    split at h
    · split at h
      · exact .inr h
      · rcases List.mem_cons.1 h with h | h
        · exact .inl ⟨h, ‹_›⟩
        · exact .inr h
    · split at h
      · split at h
        · exact .inr (List.mem_cons_of_mem _ h)
        · rcases List.mem_cons.1 h with h | h
          · exact .inl ⟨h, ‹_›⟩
          · exact .inr (List.mem_cons_of_mem _ h)
      · rcases List.mem_cons.1 h with h | h
        · exact .inr (h ▸ List.mem_cons_self)
        · rcases ih h with h | h
          · exact .inl h
          · exact .inr (List.mem_cons_of_mem _ h)

theorem Memory.write_wf {m : Memory} (hm : m.wf) {a : Nat} (ha : a < Config.addrSpace) (v : Byte) :
    (m.write a v).wf := by
  refine ⟨?_, fun c hc => ?_⟩
  · induction m with
    | nil => unfold Memory.write; split <;> simp
    | cons d m ih =>
      obtain ⟨k, w⟩ := d
      obtain ⟨hw, -, -, hk⟩ := Memory.wf_cons hm
      unfold Memory.write
      split
      · rename_i hlt
        split
        · exact hm.1
        · refine List.pairwise_cons.2 ⟨fun c hc => ?_, hm.1⟩
          rcases List.mem_cons.1 hc with rfl | hc
          · exact hlt
          · exact Nat.lt_trans hlt (hk c hc)
      · split
        · rename_i heq; subst heq
          split
          · exact hw.1
          · exact List.pairwise_cons.2 ⟨hk, hw.1⟩
        · refine List.pairwise_cons.2 ⟨fun c hc => ?_, ih hw⟩
          rcases Memory.mem_write hc with ⟨rfl, -⟩ | hc
          · show k < a; omega
          · exact hk c hc
  · rcases Memory.mem_write hc with ⟨rfl, hv⟩ | hc
    · exact ⟨hv, ha⟩
    · exact hm.2 c hc

/-- The canonical form: two memories in it that read alike are equal data. -/
theorem Memory.eq_of_read {m n : Memory} (hm : m.wf) (hn : n.wf) (h : ∀ a, m.read a = n.read a) : m = n := by
  induction m generalizing n with
  | nil =>
    cases n with
    | nil => rfl
    | cons c n =>
      obtain ⟨k, w⟩ := c
      have := h k
      simp [Memory.read] at this
      exact absurd this.symm (Memory.wf_cons hn).2.1
  | cons c m ih =>
    obtain ⟨k, w⟩ := c
    obtain ⟨hm', hw, -, hk⟩ := Memory.wf_cons hm
    cases n with
    | nil =>
      have := h k
      simp [Memory.read] at this
      exact absurd this hw
    | cons d n =>
      obtain ⟨l, x⟩ := d
      obtain ⟨hn', hx, -, hl⟩ := Memory.wf_cons hn
      have hkl : k = l := by
        rcases Nat.lt_trichotomy k l with hlt | heq | hgt
        · have hr := h k
          have : Memory.read ((l, x) :: n) k = Config.blankByte :=
            Memory.read_of_all_gt (by
              intro c hc
              rcases List.mem_cons.1 hc with rfl | hc
              · exact hlt
              · exact Nat.lt_trans hlt (hl c hc))
          rw [this] at hr
          simp [Memory.read] at hr
          exact absurd hr hw
        · exact heq
        · have hr := h l
          have : Memory.read ((k, w) :: m) l = Config.blankByte :=
            Memory.read_of_all_gt (by
              intro c hc
              rcases List.mem_cons.1 hc with rfl | hc
              · exact hgt
              · exact Nat.lt_trans hgt (hk c hc))
          rw [this] at hr
          simp [Memory.read] at hr
          exact absurd hr.symm hx
      subst hkl
      have hwx : w = x := by simpa [Memory.read] using h k
      subst hwx
      rw [ih hm' hn' fun a => ?_]
      by_cases hak : k = a
      · subst hak
        rw [Memory.read_of_all_gt hk, Memory.read_of_all_gt hl]
      · simpa [Memory.read, hak] using h a

/-! ### Byte strings -/

@[simp] theorem Memory.writeAll_nil (m : Memory) (a : Nat) : m.writeAll a [] = m := rfl
@[simp] theorem Memory.writeAll_cons (m : Memory) (a : Nat) (v : Byte) (vs : List Byte) :
    m.writeAll a (v :: vs) = (m.write a v).writeAll (a + 1) vs := rfl

theorem Memory.writeAll_append (m : Memory) (a : Nat) (vs ws : List Byte) :
    m.writeAll a (vs ++ ws) = (m.writeAll a vs).writeAll (a + vs.length) ws := by
  induction vs generalizing m a with
  | nil => simp
  | cons v vs ih =>
    simp only [List.cons_append, Memory.writeAll_cons, ih, List.length_cons]
    congr 1; omega

theorem Memory.read_writeAll_outside (m : Memory) (a : Nat) (vs : List Byte) {b : Nat}
    (h : b < a ∨ a + vs.length ≤ b) : (m.writeAll a vs).read b = m.read b := by
  induction vs generalizing m a with
  | nil => rfl
  | cons v vs ih =>
    simp only [List.length_cons] at h
    rw [Memory.writeAll_cons, ih _ _ (by omega), Memory.read_write_other _ _ (by omega)]

theorem Memory.writeAll_wf {m : Memory} (hm : m.wf) {a : Nat} {vs : List Byte}
    (h : a + vs.length ≤ Config.addrSpace) : (m.writeAll a vs).wf := by
  induction vs generalizing m a with
  | nil => exact hm
  | cons v vs ih =>
    simp only [List.length_cons] at h
    exact ih (Memory.write_wf hm (by omega) v) (by omega)

theorem Memory.read_writeAll_inside {m : Memory} (hm : m.wf) {a : Nat} {vs : List Byte}
    (h : a + vs.length ≤ Config.addrSpace) (i : Nat) (hi : i < vs.length) :
    (m.writeAll a vs).read (a + i) = vs[i] := by
  induction vs generalizing m a i with
  | nil => simp at hi
  | cons v vs ih =>
    simp only [List.length_cons] at h hi
    cases i with
    | zero =>
      rw [Memory.writeAll_cons, Memory.read_writeAll_outside _ _ _ (by omega)]
      exact Memory.read_write_same hm a v
    | succ i =>
      rw [Memory.writeAll_cons, show a + (i + 1) = a + 1 + i by omega,
        ih (Memory.write_wf hm (by omega) v) (by omega) i (by omega)]
      rfl

@[simp] theorem Memory.length_bytes (m : Memory) (a n : Nat) : (m.bytes a n).length = n := by simp [Memory.bytes]

theorem Memory.bytes_succ (m : Memory) (a n : Nat) : m.bytes a (n + 1) = m.read a :: m.bytes (a + 1) n := by
  simp [Memory.bytes, List.range_succ_eq_map, List.map_map, Function.comp_def, Nat.add_comm,
    Nat.add_left_comm]

theorem Memory.bytes_congr {m n : Memory} {a k : Nat} (h : ∀ i < k, m.read (a + i) = n.read (a + i)) :
    m.bytes a k = n.bytes a k := by
  apply List.map_congr_left
  intro i hi
  exact h i (List.mem_range.1 hi)

theorem Memory.bytes_writeAll {m : Memory} (hm : m.wf) {a : Nat} {vs : List Byte}
    (h : a + vs.length ≤ Config.addrSpace) : (m.writeAll a vs).bytes a vs.length = vs := by
  apply List.ext_getElem
  · simp
  · intro i h1 h2
    simpa [Memory.bytes] using Memory.read_writeAll_inside hm h i h2

/-! ### Free bytes -/

theorem Memory.scramble_wf {m : Memory} (hm : m.wf) (keep : Nat → Bool) (base seed n : Nat) :
    (m.scramble keep base seed n).wf := by
  induction n with
  | zero => exact hm
  | succ n ih =>
    simp only [Memory.scramble]
    split
    · exact ih
    · exact Memory.write_wf ih (Nat.mod_lt _ (by decide)) _

/-- A byte outside the range, or kept, is not touched. -/
theorem Memory.read_scramble_outside (m : Memory) (keep : Nat → Bool) (base seed n : Nat) {a : Nat}
    (h : keep a = true ∨ ∀ i < n, (base + i) % Config.addrSpace ≠ a) :
    (m.scramble keep base seed n).read a = m.read a := by
  induction n with
  | zero => rfl
  | succ n ih =>
    have ih' := ih (h.imp id fun h i hi => h i (by omega))
    simp only [Memory.scramble]
    split
    · exact ih'
    · rename_i hk
      rw [Memory.read_write_other, ih']
      rcases h with h | h
      · rintro rfl; exact hk h
      · exact h n (by omega)

end Sys2Proof.Machine
end

