-- ==== Sys2Proof/Laws/Port.lean ====
section
/-! SUPPORT. The laws of the memory port: when an access completes, what it gives, and which access is reported when
one fails. -/

namespace Sys2Proof.Machine

variable {p : Platform} {m m' : Memory}

theorem busOk_of_no_faults (h : p.busFaults = []) (a : Nat) (d : Dir) : p.busOk a d = true := by
  simp [Platform.busOk, h]

theorem portRead_ok {a : Nat} (h : p.busOk a .read = true) : portRead p m a = .ok (m.read a) := by
  simp [portRead, h]

theorem portRead_error {a : Nat} (h : p.busOk a .read = false) : portRead p m a = .error ⟨.ioError, a, 0⟩ := by
  simp [portRead, h]

theorem portWrite_ok {a : Nat} (h : p.busOk a .write = true) (v : Byte) : portWrite p m a v = .ok (m.write a v) := by
  simp [portWrite, h]

theorem portWrite_error {a : Nat} (h : p.busOk a .write = false) (v : Byte) :
    portWrite p m a v = .error ⟨.ioError, a, 1⟩ := by
  simp [portWrite, h]

/-- A port write that completes is a memory write. -/
theorem portWrite_cases {a : Nat} {v : Byte} (h : portWrite p m a v = .ok m') : m' = m.write a v := by
  unfold portWrite at h
  split at h <;> simp_all

theorem Readable.tail {a n : Nat} (h : Readable p a (n + 1)) : Readable p (a + 1) n :=
  fun x h1 h2 => h x (by omega) (by omega)

theorem Writable.tail {a n : Nat} (h : Writable p a (n + 1)) : Writable p (a + 1) n :=
  fun x h1 h2 => h x (by omega) (by omega)

/-- Over readable memory a read of `n` bytes gives the bytes. -/
theorem portReadBytes_ok {a n : Nat} (h : Readable p a n) : portReadBytes p m a n = .ok (m.bytes a n) := by
  induction n generalizing a with
  | zero => rfl
  | succ n ih =>
    simp [portReadBytes, portRead_ok (h a (by omega) (by omega)), ih h.tail, Memory.bytes_succ]

/-- A read of `n` bytes reports the first address of the range whose read fails (R111, R209). -/
theorem portReadBytes_error {a n k : Nat} (hk : k < n) (h : Readable p a k)
    (hf : p.busOk (a + k) .read = false) : portReadBytes p m a n = .error ⟨.ioError, a + k, 0⟩ := by
  induction n generalizing a k with
  | zero => omega
  | succ n ih =>
    cases k with
    | zero =>
      rw [Nat.add_zero] at hf
      simp [portReadBytes, portRead_error (m := m) hf]
    | succ k =>
      have := ih (a := a + 1) (k := k) (by omega) h.tail
        (by rw [show a + 1 + k = a + (k + 1) by omega]; exact hf)
      simp [portReadBytes, portRead_ok (m := m) (h a (by omega) (by omega)), this, Nat.add_comm, Nat.add_left_comm]

/-- If a read of `n` bytes completes, it gives the bytes. -/
theorem portReadBytes_cases {a n : Nat} {bs : List Byte} (h : portReadBytes p m a n = .ok bs) :
    bs = m.bytes a n := by
  induction n generalizing a bs with
  | zero => simp_all [portReadBytes, Memory.bytes]
  | succ n ih =>
    simp only [portReadBytes, portRead] at h
    split at h
    · simp_all
    · rename_i b hb
      split at hb <;> simp at hb
      split at h
      · simp_all
      · rename_i bs' hbs
        simp at h
        rw [← h, ih hbs, ← hb, Memory.bytes_succ]

/-- Over writable memory a write of a byte string writes it. -/
theorem portWriteBytes_ok {a : Nat} {vs : List Byte} (h : Writable p a vs.length) :
    portWriteBytes p m a vs = .ok (m.writeAll a vs) := by
  induction vs generalizing a m with
  | nil => rfl
  | cons v vs ih =>
    simp only [List.length_cons] at h
    simp [portWriteBytes, portWrite_ok (h a (by omega) (by omega)), ih h.tail]

/-- If a write of a byte string completes, it wrote it. -/
theorem portWriteBytes_cases {a : Nat} {vs : List Byte} (h : portWriteBytes p m a vs = .ok m') :
    m' = m.writeAll a vs := by
  induction vs generalizing a m with
  | nil => simp_all [portWriteBytes]
  | cons v vs ih =>
    simp only [portWriteBytes] at h
    split at h
    · simp at h
    · rename_i m1 h1
      rw [ih h, portWrite_cases h1]; rfl

/-- Over readable and writable memory a copy between ranges that do not overlap writes the source's bytes. -/
theorem portCopy_ok {src dst n : Nat} (hr : Readable p src n) (hw : Writable p dst n)
    (hd : n = 0 ∨ dst + n ≤ src ∨ src + n ≤ dst) :
    portCopy p m src dst n = .ok (m.writeAll dst (m.bytes src n)) := by
  induction n generalizing src dst m with
  | zero => rfl
  | succ n ih =>
    have hkeep : (m.write dst (m.read src)).bytes (src + 1) n = m.bytes (src + 1) n :=
      Memory.bytes_congr fun i hi => Memory.read_write_other _ _ (by omega)
    simp [portCopy, portRead_ok (m := m) (hr src (by omega) (by omega)),
      portWrite_ok (m := m) (hw dst (by omega) (by omega)), ih hr.tail hw.tail (by omega), hkeep,
      Memory.bytes_succ]

/-- A copy that completes touches no byte outside its destination. -/
theorem portCopy_outside {src dst n b : Nat} (h : portCopy p m src dst n = .ok m') (hb : b < dst ∨ dst + n ≤ b) :
    m'.read b = m.read b := by
  induction n generalizing src dst m with
  | zero => simp_all [portCopy]
  | succ n ih =>
    simp only [portCopy] at h
    split at h
    · simp at h
    · split at h
      · simp at h
      · rename_i m1 h1
        rw [ih h (by omega), portWrite_cases h1, Memory.read_write_other _ _ (by omega)]

theorem portCopy_wf {src dst n : Nat} (hm : m.wf) (h : portCopy p m src dst n = .ok m')
    (hd : dst + n ≤ Config.addrSpace) : m'.wf := by
  induction n generalizing src dst m with
  | zero =>
    simp only [portCopy, Except.ok.injEq] at h
    exact h ▸ hm
  | succ n ih =>
    simp only [portCopy] at h
    split at h
    · simp at h
    · split at h
      · simp at h
      · rename_i m1 h1
        exact ih (portWrite_cases h1 ▸ Memory.write_wf hm (by omega) _) h (by omega)

/-! ### Bytes of the destination range only -/

theorem State.DstOnly.refl (s : State) : s.DstOnly s.mem := fun _ _ => rfl

/-- Opening the destination range touches nothing outside it. -/
theorem openDst_dstOnly (s : State) (hd : s.operands.dstAddr.toNat + s.operands.dstCap.toNat ≤ Config.addrSpace) :
    s.DstOnly (s.openDst s.operands).mem := by
  intro a ha
  refine Memory.read_scramble_outside _ _ _ _ _ (.inr fun i hi h => ?_)
  rw [Nat.mod_eq_of_lt (by omega)] at h
  omega

end Sys2Proof.Machine
end

