-- ==== Sys2Proof/Laws/Decoder.lean ====
section
/-! SUPPORT. What a decoding can do to memory. -/

namespace Sys2Proof.Machine

variable {p : Platform} {dt : List DtEntry} {j : DecodeJob} {m m' : Memory}

/-- A decoding that completes touches no byte outside the bytes it produces, and keeps the canonical form. -/
theorem decodeLoop_frame {left k out : Nat} {cur : Byte} {acc : Bits}
    (h : decodeLoop p dt j left k cur acc out m = .ok m') :
    (∀ a, (a < j.dst ∨ j.dst + j.orig ≤ a) → m'.read a = m.read a) ∧
    (m.wf → j.dst + j.orig ≤ Config.addrSpace → m'.wf) := by
  induction left generalizing k cur acc out m with
  | zero =>
    simp only [decodeLoop] at h
    split at h
    · simp at h
    · simp only [Except.ok.injEq] at h; subst h; exact ⟨fun _ _ => rfl, fun hm _ => hm⟩
  | succ left ih =>
    simp only [decodeLoop] at h
    split at h
    · rename_i hout
      split at h
      · simp at h
      · split at h
        · split at h
          · simp at h
          · rename_i m1 h1
            rw [portWrite_cases h1] at h
            refine ⟨fun a ha => ?_, fun hm hd => (ih h).2 (Memory.write_wf hm (by omega) _) hd⟩
            rw [(ih h).1 a ha, Memory.read_write_other _ _ (by omega)]
        · split at h
          · simp at h
          · exact ih h
    · simp only [Except.ok.injEq] at h; subst h; exact ⟨fun _ _ => rfl, fun hm _ => hm⟩

/-- The same of a decoding with its checks: the bytes it produces fit the destination range. -/
theorem decodeStream_frame (h : decodeStream p dt j m = .ok m') :
    j.orig ≤ j.cap ∧ (∀ a, (a < j.dst ∨ j.dst + j.cap ≤ a) → m'.read a = m.read a) ∧
    (m.wf → j.dst + j.cap ≤ Config.addrSpace → m'.wf) := by
  unfold decodeStream at h
  split at h
  · simp at h
  · have hle : j.orig ≤ j.cap := by omega
    split at h
    · simp only [Except.ok.injEq] at h; subst h; exact ⟨hle, fun _ _ => rfl, fun hm _ => hm⟩
    · split at h
      · simp at h
      · exact ⟨hle, fun a ha => (decodeLoop_frame h).1 a (by omega),
          fun hm hd => (decodeLoop_frame h).2 hm (by omega)⟩

end Sys2Proof.Machine
end

