-- ==== Sys2Proof/Laws/PerInstr.lean ====
section
/-! SUPPORT. Laws stated per instruction, one lemma per constructor. -/

namespace Sys2Proof.Laws.ReservedZero

/-- The command word of an instruction leaves the reserved field 0 and is well formed (30_encoding.md R80, R82). -/
def Statement (i : Instr) : Prop :=
  (encode i).extractLsb' 8 56 = 0#56 ∧ (CmdFields.ofWord (encode i)).wellFormed = true ∧ i.wellFormed = true

theorem nop : Statement .nop := by unfold Statement; decide
theorem count : Statement .count := by unfold Statement; decide
theorem buildTree : Statement .buildTree := by unfold Statement; decide
theorem buildTable : Statement .buildTable := by unfold Statement; decide
theorem encode : Statement .encode := by unfold Statement; decide
theorem decode : Statement .decode := by unfold Statement; decide
theorem serialize : Statement .serialize := by unfold Statement; decide
theorem deserialize : Statement .deserialize := by unfold Statement; decide
theorem compress : Statement .compress := by unfold Statement; decide
theorem decompress : Statement .decompress := by unfold Statement; decide
theorem clear : Statement .clear := by unfold Statement; decide

end Sys2Proof.Laws.ReservedZero
end

