-- ==== Sys2Proof/Laws/State.lean ====
section
/-! SUPPORT. One lemma per field per update of the state, each true by definition, so that no proof unfolds a record
update. -/

namespace Sys2Proof.Machine

variable (s : State)

/-! ### complete -/

@[simp] theorem State.complete_irqEn (c : Code) (a i n : Nat) : (s.complete c a i n).irqEn = s.irqEn := rfl
@[simp] theorem State.complete_cfg (c : Code) (a i n : Nat) : (s.complete c a i n).cfg = s.cfg := rfl
@[simp] theorem State.complete_res (c : Code) (a i n : Nat) : (s.complete c a i n).res = { s.res with resultLen := BitVec.ofNat 64 n, errAddr := BitVec.ofNat 64 a, errInfo := BitVec.ofNat 64 i } := rfl
@[simp] theorem State.complete_done (c : Code) (a i n : Nat) : (s.complete c a i n).done = true := rfl
@[simp] theorem State.complete_drop (c : Code) (a i n : Nat) : (s.complete c a i n).drop = s.drop := rfl
@[simp] theorem State.complete_flags (c : Code) (a i n : Nat) : (s.complete c a i n).flags = s.flags := rfl
@[simp] theorem State.complete_code (c : Code) (a i n : Nat) : (s.complete c a i n).code = c := rfl
@[simp] theorem State.complete_lastOp (c : Code) (a i n : Nat) : (s.complete c a i n).lastOp = s.lastOp := rfl
@[simp] theorem State.complete_engine (c : Code) (a i n : Nat) : (s.complete c a i n).engine = none := rfl
@[simp] theorem State.complete_tables (c : Code) (a i n : Nat) : (s.complete c a i n).tables = s.tables := rfl
@[simp] theorem State.complete_mem (c : Code) (a i n : Nat) : (s.complete c a i n).mem = s.mem := rfl
@[simp] theorem State.complete_platform (c : Code) (a i n : Nat) : (s.complete c a i n).platform = s.platform := rfl
@[simp] theorem State.complete_inputs (c : Code) (a i n : Nat) : (s.complete c a i n).inputs = s.inputs := rfl
@[simp] theorem State.complete_hostData (c : Code) (a i n : Nat) : (s.complete c a i n).hostData = s.hostData := rfl
@[simp] theorem State.complete_unseen (c : Code) (a i n : Nat) : (s.complete c a i n).unseen = s.engine.toList ++ s.unseen := rfl
@[simp] theorem State.complete_draws (c : Code) (a i n : Nat) : (s.complete c a i n).draws = s.draws := rfl

/-! ### openDst -/

@[simp] theorem State.openDst_irqEn (o : Operands) : (s.openDst o).irqEn = s.irqEn := rfl
@[simp] theorem State.openDst_cfg (o : Operands) : (s.openDst o).cfg = s.cfg := rfl
@[simp] theorem State.openDst_res (o : Operands) : (s.openDst o).res = s.res := rfl
@[simp] theorem State.openDst_done (o : Operands) : (s.openDst o).done = s.done := rfl
@[simp] theorem State.openDst_drop (o : Operands) : (s.openDst o).drop = s.drop := rfl
@[simp] theorem State.openDst_flags (o : Operands) : (s.openDst o).flags = s.flags := rfl
@[simp] theorem State.openDst_code (o : Operands) : (s.openDst o).code = s.code := rfl
@[simp] theorem State.openDst_lastOp (o : Operands) : (s.openDst o).lastOp = s.lastOp := rfl
@[simp] theorem State.openDst_engine (o : Operands) : (s.openDst o).engine = s.engine := rfl
@[simp] theorem State.openDst_tables (o : Operands) : (s.openDst o).tables = s.tables := rfl
@[simp] theorem State.openDst_mem (o : Operands) : (s.openDst o).mem = s.mem.scramble (fun _ => false) o.dstAddr.toNat s.draws o.dstCap.toNat := rfl
@[simp] theorem State.openDst_platform (o : Operands) : (s.openDst o).platform = s.platform := rfl
@[simp] theorem State.openDst_inputs (o : Operands) : (s.openDst o).inputs = s.inputs := rfl
@[simp] theorem State.openDst_hostData (o : Operands) : (s.openDst o).hostData = s.hostData := rfl
@[simp] theorem State.openDst_unseen (o : Operands) : (s.openDst o).unseen = s.unseen := rfl
@[simp] theorem State.openDst_draws (o : Operands) : (s.openDst o).draws = s.draws + o.dstCap.toNat := rfl

/-! ### storeCounts -/

@[simp] theorem State.storeCounts_irqEn (bs : List Byte) : (s.storeCounts bs).irqEn = s.irqEn := rfl
@[simp] theorem State.storeCounts_cfg (bs : List Byte) : (s.storeCounts bs).cfg = s.cfg := rfl
@[simp] theorem State.storeCounts_res (bs : List Byte) : (s.storeCounts bs).res = s.res := rfl
@[simp] theorem State.storeCounts_done (bs : List Byte) : (s.storeCounts bs).done = s.done := rfl
@[simp] theorem State.storeCounts_drop (bs : List Byte) : (s.storeCounts bs).drop = s.drop := rfl
@[simp] theorem State.storeCounts_flags (bs : List Byte) : (s.storeCounts bs).flags = { s.flags with freqValid := true, treeValid := false, etableValid := false } := rfl
@[simp] theorem State.storeCounts_code (bs : List Byte) : (s.storeCounts bs).code = s.code := rfl
@[simp] theorem State.storeCounts_lastOp (bs : List Byte) : (s.storeCounts bs).lastOp = s.lastOp := rfl
@[simp] theorem State.storeCounts_engine (bs : List Byte) : (s.storeCounts bs).engine = s.engine := rfl
@[simp] theorem State.storeCounts_tables (bs : List Byte) : (s.storeCounts bs).tables = { s.tables with freq := countBytes bs } := rfl
@[simp] theorem State.storeCounts_mem (bs : List Byte) : (s.storeCounts bs).mem = s.mem := rfl
@[simp] theorem State.storeCounts_platform (bs : List Byte) : (s.storeCounts bs).platform = s.platform := rfl
@[simp] theorem State.storeCounts_inputs (bs : List Byte) : (s.storeCounts bs).inputs = s.inputs := rfl
@[simp] theorem State.storeCounts_hostData (bs : List Byte) : (s.storeCounts bs).hostData = s.hostData := rfl
@[simp] theorem State.storeCounts_unseen (bs : List Byte) : (s.storeCounts bs).unseen = s.unseen := rfl
@[simp] theorem State.storeCounts_draws (bs : List Byte) : (s.storeCounts bs).draws = s.draws := rfl

/-! ### dropCounts -/

@[simp] theorem State.dropCounts_irqEn : s.dropCounts.irqEn = s.irqEn := rfl
@[simp] theorem State.dropCounts_cfg : s.dropCounts.cfg = s.cfg := rfl
@[simp] theorem State.dropCounts_res : s.dropCounts.res = s.res := rfl
@[simp] theorem State.dropCounts_done : s.dropCounts.done = s.done := rfl
@[simp] theorem State.dropCounts_drop : s.dropCounts.drop = s.drop := rfl
@[simp] theorem State.dropCounts_flags : s.dropCounts.flags = { s.flags with freqValid := false, treeValid := false, etableValid := false } := rfl
@[simp] theorem State.dropCounts_code : s.dropCounts.code = s.code := rfl
@[simp] theorem State.dropCounts_lastOp : s.dropCounts.lastOp = s.lastOp := rfl
@[simp] theorem State.dropCounts_engine : s.dropCounts.engine = s.engine := rfl
@[simp] theorem State.dropCounts_tables : s.dropCounts.tables = { s.tables with freq := Vector.replicate 256 0#64 } := rfl
@[simp] theorem State.dropCounts_mem : s.dropCounts.mem = s.mem := rfl
@[simp] theorem State.dropCounts_platform : s.dropCounts.platform = s.platform := rfl
@[simp] theorem State.dropCounts_inputs : s.dropCounts.inputs = s.inputs := rfl
@[simp] theorem State.dropCounts_hostData : s.dropCounts.hostData = s.hostData := rfl
@[simp] theorem State.dropCounts_unseen : s.dropCounts.unseen = s.unseen := rfl
@[simp] theorem State.dropCounts_draws : s.dropCounts.draws = s.draws := rfl

/-! ### storeTree -/

@[simp] theorem State.storeTree_irqEn : s.storeTree.irqEn = s.irqEn := rfl
@[simp] theorem State.storeTree_cfg : s.storeTree.cfg = s.cfg := rfl
@[simp] theorem State.storeTree_res : s.storeTree.res = s.res := rfl
@[simp] theorem State.storeTree_done : s.storeTree.done = s.done := rfl
@[simp] theorem State.storeTree_drop : s.storeTree.drop = s.drop := rfl
@[simp] theorem State.storeTree_flags : s.storeTree.flags = { s.flags with treeValid := true, etableValid := false } := rfl
@[simp] theorem State.storeTree_code : s.storeTree.code = s.code := rfl
@[simp] theorem State.storeTree_lastOp : s.storeTree.lastOp = s.lastOp := rfl
@[simp] theorem State.storeTree_engine : s.storeTree.engine = s.engine := rfl
@[simp] theorem State.storeTree_tables : s.storeTree.tables = { s.tables with nodes := buildNodes s.tables.freq, root := (buildNodes s.tables.freq).length - 1 } := rfl
@[simp] theorem State.storeTree_mem : s.storeTree.mem = s.mem := rfl
@[simp] theorem State.storeTree_platform : s.storeTree.platform = s.platform := rfl
@[simp] theorem State.storeTree_inputs : s.storeTree.inputs = s.inputs := rfl
@[simp] theorem State.storeTree_hostData : s.storeTree.hostData = s.hostData := rfl
@[simp] theorem State.storeTree_unseen : s.storeTree.unseen = s.unseen := rfl
@[simp] theorem State.storeTree_draws : s.storeTree.draws = s.draws := rfl

/-! ### dropTree -/

@[simp] theorem State.dropTree_irqEn : s.dropTree.irqEn = s.irqEn := rfl
@[simp] theorem State.dropTree_cfg : s.dropTree.cfg = s.cfg := rfl
@[simp] theorem State.dropTree_res : s.dropTree.res = s.res := rfl
@[simp] theorem State.dropTree_done : s.dropTree.done = s.done := rfl
@[simp] theorem State.dropTree_drop : s.dropTree.drop = s.drop := rfl
@[simp] theorem State.dropTree_flags : s.dropTree.flags = { s.flags with treeValid := false, etableValid := false } := rfl
@[simp] theorem State.dropTree_code : s.dropTree.code = s.code := rfl
@[simp] theorem State.dropTree_lastOp : s.dropTree.lastOp = s.lastOp := rfl
@[simp] theorem State.dropTree_engine : s.dropTree.engine = s.engine := rfl
@[simp] theorem State.dropTree_tables : s.dropTree.tables = s.tables := rfl
@[simp] theorem State.dropTree_mem : s.dropTree.mem = s.mem := rfl
@[simp] theorem State.dropTree_platform : s.dropTree.platform = s.platform := rfl
@[simp] theorem State.dropTree_inputs : s.dropTree.inputs = s.inputs := rfl
@[simp] theorem State.dropTree_hostData : s.dropTree.hostData = s.hostData := rfl
@[simp] theorem State.dropTree_unseen : s.dropTree.unseen = s.unseen := rfl
@[simp] theorem State.dropTree_draws : s.dropTree.draws = s.draws := rfl

/-! ### storeCodes -/

@[simp] theorem State.storeCodes_irqEn : s.storeCodes.irqEn = s.irqEn := rfl
@[simp] theorem State.storeCodes_cfg : s.storeCodes.cfg = s.cfg := rfl
@[simp] theorem State.storeCodes_res : s.storeCodes.res = s.res := rfl
@[simp] theorem State.storeCodes_done : s.storeCodes.done = s.done := rfl
@[simp] theorem State.storeCodes_drop : s.storeCodes.drop = s.drop := rfl
@[simp] theorem State.storeCodes_flags : s.storeCodes.flags = { s.flags with etableValid := true } := rfl
@[simp] theorem State.storeCodes_code : s.storeCodes.code = s.code := rfl
@[simp] theorem State.storeCodes_lastOp : s.storeCodes.lastOp = s.lastOp := rfl
@[simp] theorem State.storeCodes_engine : s.storeCodes.engine = s.engine := rfl
@[simp] theorem State.storeCodes_tables : s.storeCodes.tables = { s.tables with codes := buildCodes s.tables.nodes s.tables.root } := rfl
@[simp] theorem State.storeCodes_mem : s.storeCodes.mem = s.mem := rfl
@[simp] theorem State.storeCodes_platform : s.storeCodes.platform = s.platform := rfl
@[simp] theorem State.storeCodes_inputs : s.storeCodes.inputs = s.inputs := rfl
@[simp] theorem State.storeCodes_hostData : s.storeCodes.hostData = s.hostData := rfl
@[simp] theorem State.storeCodes_unseen : s.storeCodes.unseen = s.unseen := rfl
@[simp] theorem State.storeCodes_draws : s.storeCodes.draws = s.draws := rfl

/-! ### storeEncoded -/

@[simp] theorem State.storeEncoded_irqEn (o : Operands) (n : Nat) (m : Memory) : (s.storeEncoded o n m).irqEn = s.irqEn := rfl
@[simp] theorem State.storeEncoded_cfg (o : Operands) (n : Nat) (m : Memory) : (s.storeEncoded o n m).cfg = { s.cfg with origLen := o.srcLen } := rfl
@[simp] theorem State.storeEncoded_res (o : Operands) (n : Nat) (m : Memory) : (s.storeEncoded o n m).res = { s.res with payloadBits := BitVec.ofNat 64 n } := rfl
@[simp] theorem State.storeEncoded_done (o : Operands) (n : Nat) (m : Memory) : (s.storeEncoded o n m).done = s.done := rfl
@[simp] theorem State.storeEncoded_drop (o : Operands) (n : Nat) (m : Memory) : (s.storeEncoded o n m).drop = s.drop := rfl
@[simp] theorem State.storeEncoded_flags (o : Operands) (n : Nat) (m : Memory) : (s.storeEncoded o n m).flags = s.flags := rfl
@[simp] theorem State.storeEncoded_code (o : Operands) (n : Nat) (m : Memory) : (s.storeEncoded o n m).code = s.code := rfl
@[simp] theorem State.storeEncoded_lastOp (o : Operands) (n : Nat) (m : Memory) : (s.storeEncoded o n m).lastOp = s.lastOp := rfl
@[simp] theorem State.storeEncoded_engine (o : Operands) (n : Nat) (m : Memory) : (s.storeEncoded o n m).engine = s.engine := rfl
@[simp] theorem State.storeEncoded_tables (o : Operands) (n : Nat) (m : Memory) : (s.storeEncoded o n m).tables = s.tables := rfl
@[simp] theorem State.storeEncoded_mem (o : Operands) (n : Nat) (m : Memory) : (s.storeEncoded o n m).mem = m := rfl
@[simp] theorem State.storeEncoded_platform (o : Operands) (n : Nat) (m : Memory) : (s.storeEncoded o n m).platform = s.platform := rfl
@[simp] theorem State.storeEncoded_inputs (o : Operands) (n : Nat) (m : Memory) : (s.storeEncoded o n m).inputs = s.inputs := rfl
@[simp] theorem State.storeEncoded_hostData (o : Operands) (n : Nat) (m : Memory) : (s.storeEncoded o n m).hostData = s.hostData := rfl
@[simp] theorem State.storeEncoded_unseen (o : Operands) (n : Nat) (m : Memory) : (s.storeEncoded o n m).unseen = s.unseen := rfl
@[simp] theorem State.storeEncoded_draws (o : Operands) (n : Nat) (m : Memory) : (s.storeEncoded o n m).draws = s.draws := rfl

/-! ### storeMem -/

@[simp] theorem State.storeMem_irqEn (m : Memory) : (s.storeMem m).irqEn = s.irqEn := rfl
@[simp] theorem State.storeMem_cfg (m : Memory) : (s.storeMem m).cfg = s.cfg := rfl
@[simp] theorem State.storeMem_res (m : Memory) : (s.storeMem m).res = s.res := rfl
@[simp] theorem State.storeMem_done (m : Memory) : (s.storeMem m).done = s.done := rfl
@[simp] theorem State.storeMem_drop (m : Memory) : (s.storeMem m).drop = s.drop := rfl
@[simp] theorem State.storeMem_flags (m : Memory) : (s.storeMem m).flags = s.flags := rfl
@[simp] theorem State.storeMem_code (m : Memory) : (s.storeMem m).code = s.code := rfl
@[simp] theorem State.storeMem_lastOp (m : Memory) : (s.storeMem m).lastOp = s.lastOp := rfl
@[simp] theorem State.storeMem_engine (m : Memory) : (s.storeMem m).engine = s.engine := rfl
@[simp] theorem State.storeMem_tables (m : Memory) : (s.storeMem m).tables = s.tables := rfl
@[simp] theorem State.storeMem_mem (m : Memory) : (s.storeMem m).mem = m := rfl
@[simp] theorem State.storeMem_platform (m : Memory) : (s.storeMem m).platform = s.platform := rfl
@[simp] theorem State.storeMem_inputs (m : Memory) : (s.storeMem m).inputs = s.inputs := rfl
@[simp] theorem State.storeMem_hostData (m : Memory) : (s.storeMem m).hostData = s.hostData := rfl
@[simp] theorem State.storeMem_unseen (m : Memory) : (s.storeMem m).unseen = s.unseen := rfl
@[simp] theorem State.storeMem_draws (m : Memory) : (s.storeMem m).draws = s.draws := rfl

/-! ### storeSerialized -/

@[simp] theorem State.storeSerialized_irqEn (m : Memory) : (s.storeSerialized m).irqEn = s.irqEn := rfl
@[simp] theorem State.storeSerialized_cfg (m : Memory) : (s.storeSerialized m).cfg = s.cfg := rfl
@[simp] theorem State.storeSerialized_res (m : Memory) : (s.storeSerialized m).res = { s.res with tableSegLen := BitVec.ofNat 64 (segBytes s.tables.codes).length } := rfl
@[simp] theorem State.storeSerialized_done (m : Memory) : (s.storeSerialized m).done = s.done := rfl
@[simp] theorem State.storeSerialized_drop (m : Memory) : (s.storeSerialized m).drop = s.drop := rfl
@[simp] theorem State.storeSerialized_flags (m : Memory) : (s.storeSerialized m).flags = s.flags := rfl
@[simp] theorem State.storeSerialized_code (m : Memory) : (s.storeSerialized m).code = s.code := rfl
@[simp] theorem State.storeSerialized_lastOp (m : Memory) : (s.storeSerialized m).lastOp = s.lastOp := rfl
@[simp] theorem State.storeSerialized_engine (m : Memory) : (s.storeSerialized m).engine = s.engine := rfl
@[simp] theorem State.storeSerialized_tables (m : Memory) : (s.storeSerialized m).tables = s.tables := rfl
@[simp] theorem State.storeSerialized_mem (m : Memory) : (s.storeSerialized m).mem = m := rfl
@[simp] theorem State.storeSerialized_platform (m : Memory) : (s.storeSerialized m).platform = s.platform := rfl
@[simp] theorem State.storeSerialized_inputs (m : Memory) : (s.storeSerialized m).inputs = s.inputs := rfl
@[simp] theorem State.storeSerialized_hostData (m : Memory) : (s.storeSerialized m).hostData = s.hostData := rfl
@[simp] theorem State.storeSerialized_unseen (m : Memory) : (s.storeSerialized m).unseen = s.unseen := rfl
@[simp] theorem State.storeSerialized_draws (m : Memory) : (s.storeSerialized m).draws = s.draws := rfl

/-! ### storeDt -/

@[simp] theorem State.storeDt_irqEn (es : List DtEntry) : (s.storeDt es).irqEn = s.irqEn := rfl
@[simp] theorem State.storeDt_cfg (es : List DtEntry) : (s.storeDt es).cfg = s.cfg := rfl
@[simp] theorem State.storeDt_res (es : List DtEntry) : (s.storeDt es).res = s.res := rfl
@[simp] theorem State.storeDt_done (es : List DtEntry) : (s.storeDt es).done = s.done := rfl
@[simp] theorem State.storeDt_drop (es : List DtEntry) : (s.storeDt es).drop = s.drop := rfl
@[simp] theorem State.storeDt_flags (es : List DtEntry) : (s.storeDt es).flags = { s.flags with dtableValid := true } := rfl
@[simp] theorem State.storeDt_code (es : List DtEntry) : (s.storeDt es).code = s.code := rfl
@[simp] theorem State.storeDt_lastOp (es : List DtEntry) : (s.storeDt es).lastOp = s.lastOp := rfl
@[simp] theorem State.storeDt_engine (es : List DtEntry) : (s.storeDt es).engine = s.engine := rfl
@[simp] theorem State.storeDt_tables (es : List DtEntry) : (s.storeDt es).tables = { s.tables with dt := es } := rfl
@[simp] theorem State.storeDt_mem (es : List DtEntry) : (s.storeDt es).mem = s.mem := rfl
@[simp] theorem State.storeDt_platform (es : List DtEntry) : (s.storeDt es).platform = s.platform := rfl
@[simp] theorem State.storeDt_inputs (es : List DtEntry) : (s.storeDt es).inputs = s.inputs := rfl
@[simp] theorem State.storeDt_hostData (es : List DtEntry) : (s.storeDt es).hostData = s.hostData := rfl
@[simp] theorem State.storeDt_unseen (es : List DtEntry) : (s.storeDt es).unseen = s.unseen := rfl
@[simp] theorem State.storeDt_draws (es : List DtEntry) : (s.storeDt es).draws = s.draws := rfl

/-! ### dropDt -/

@[simp] theorem State.dropDt_irqEn : s.dropDt.irqEn = s.irqEn := rfl
@[simp] theorem State.dropDt_cfg : s.dropDt.cfg = s.cfg := rfl
@[simp] theorem State.dropDt_res : s.dropDt.res = s.res := rfl
@[simp] theorem State.dropDt_done : s.dropDt.done = s.done := rfl
@[simp] theorem State.dropDt_drop : s.dropDt.drop = s.drop := rfl
@[simp] theorem State.dropDt_flags : s.dropDt.flags = { s.flags with dtableValid := false } := rfl
@[simp] theorem State.dropDt_code : s.dropDt.code = s.code := rfl
@[simp] theorem State.dropDt_lastOp : s.dropDt.lastOp = s.lastOp := rfl
@[simp] theorem State.dropDt_engine : s.dropDt.engine = s.engine := rfl
@[simp] theorem State.dropDt_tables : s.dropDt.tables = s.tables := rfl
@[simp] theorem State.dropDt_mem : s.dropDt.mem = s.mem := rfl
@[simp] theorem State.dropDt_platform : s.dropDt.platform = s.platform := rfl
@[simp] theorem State.dropDt_inputs : s.dropDt.inputs = s.inputs := rfl
@[simp] theorem State.dropDt_hostData : s.dropDt.hostData = s.hostData := rfl
@[simp] theorem State.dropDt_unseen : s.dropDt.unseen = s.unseen := rfl
@[simp] theorem State.dropDt_draws : s.dropDt.draws = s.draws := rfl

/-! ### storeParsed -/

@[simp] theorem State.storeParsed_irqEn (o : Operands) (c : Container) : (s.storeParsed o c).irqEn = s.irqEn := rfl
@[simp] theorem State.storeParsed_cfg (o : Operands) (c : Container) : (s.storeParsed o c).cfg = { s.cfg with origLen := BitVec.ofNat 64 c.orig } := rfl
@[simp] theorem State.storeParsed_res (o : Operands) (c : Container) : (s.storeParsed o c).res = { s.res with tableSegLen := BitVec.ofNat 64 c.segLen, payloadAddr := BitVec.ofNat 64 (o.srcAddr.toNat + 16 + c.segLen), payloadLen := BitVec.ofNat 64 (o.srcLen.toNat - 16 - c.segLen) } := rfl
@[simp] theorem State.storeParsed_done (o : Operands) (c : Container) : (s.storeParsed o c).done = s.done := rfl
@[simp] theorem State.storeParsed_drop (o : Operands) (c : Container) : (s.storeParsed o c).drop = s.drop := rfl
@[simp] theorem State.storeParsed_flags (o : Operands) (c : Container) : (s.storeParsed o c).flags = s.flags := rfl
@[simp] theorem State.storeParsed_code (o : Operands) (c : Container) : (s.storeParsed o c).code = s.code := rfl
@[simp] theorem State.storeParsed_lastOp (o : Operands) (c : Container) : (s.storeParsed o c).lastOp = s.lastOp := rfl
@[simp] theorem State.storeParsed_engine (o : Operands) (c : Container) : (s.storeParsed o c).engine = s.engine := rfl
@[simp] theorem State.storeParsed_tables (o : Operands) (c : Container) : (s.storeParsed o c).tables = s.tables := rfl
@[simp] theorem State.storeParsed_mem (o : Operands) (c : Container) : (s.storeParsed o c).mem = s.mem := rfl
@[simp] theorem State.storeParsed_platform (o : Operands) (c : Container) : (s.storeParsed o c).platform = s.platform := rfl
@[simp] theorem State.storeParsed_inputs (o : Operands) (c : Container) : (s.storeParsed o c).inputs = s.inputs := rfl
@[simp] theorem State.storeParsed_hostData (o : Operands) (c : Container) : (s.storeParsed o c).hostData = s.hostData := rfl
@[simp] theorem State.storeParsed_unseen (o : Operands) (c : Container) : (s.storeParsed o c).unseen = s.unseen := rfl
@[simp] theorem State.storeParsed_draws (o : Operands) (c : Container) : (s.storeParsed o c).draws = s.draws := rfl

/-! ### storeCompressed -/

@[simp] theorem State.storeCompressed_irqEn (o : Operands) (m : Memory) : (s.storeCompressed o m).irqEn = s.irqEn := rfl
@[simp] theorem State.storeCompressed_cfg (o : Operands) (m : Memory) : (s.storeCompressed o m).cfg = { s.cfg with origLen := o.srcLen } := rfl
@[simp] theorem State.storeCompressed_res (o : Operands) (m : Memory) : (s.storeCompressed o m).res = { s.res with payloadBits := BitVec.ofNat 64 (codedBits s.tables.freq s.tables.codes), tableSegLen := BitVec.ofNat 64 (segBytes s.tables.codes).length } := rfl
@[simp] theorem State.storeCompressed_done (o : Operands) (m : Memory) : (s.storeCompressed o m).done = s.done := rfl
@[simp] theorem State.storeCompressed_drop (o : Operands) (m : Memory) : (s.storeCompressed o m).drop = s.drop := rfl
@[simp] theorem State.storeCompressed_flags (o : Operands) (m : Memory) : (s.storeCompressed o m).flags = s.flags := rfl
@[simp] theorem State.storeCompressed_code (o : Operands) (m : Memory) : (s.storeCompressed o m).code = s.code := rfl
@[simp] theorem State.storeCompressed_lastOp (o : Operands) (m : Memory) : (s.storeCompressed o m).lastOp = s.lastOp := rfl
@[simp] theorem State.storeCompressed_engine (o : Operands) (m : Memory) : (s.storeCompressed o m).engine = s.engine := rfl
@[simp] theorem State.storeCompressed_tables (o : Operands) (m : Memory) : (s.storeCompressed o m).tables = s.tables := rfl
@[simp] theorem State.storeCompressed_mem (o : Operands) (m : Memory) : (s.storeCompressed o m).mem = m := rfl
@[simp] theorem State.storeCompressed_platform (o : Operands) (m : Memory) : (s.storeCompressed o m).platform = s.platform := rfl
@[simp] theorem State.storeCompressed_inputs (o : Operands) (m : Memory) : (s.storeCompressed o m).inputs = s.inputs := rfl
@[simp] theorem State.storeCompressed_hostData (o : Operands) (m : Memory) : (s.storeCompressed o m).hostData = s.hostData := rfl
@[simp] theorem State.storeCompressed_unseen (o : Operands) (m : Memory) : (s.storeCompressed o m).unseen = s.unseen := rfl
@[simp] theorem State.storeCompressed_draws (o : Operands) (m : Memory) : (s.storeCompressed o m).draws = s.draws := rfl

/-! ### clearTables -/

@[simp] theorem State.clearTables_irqEn : s.clearTables.irqEn = s.irqEn := rfl
@[simp] theorem State.clearTables_cfg : s.clearTables.cfg = s.cfg := rfl
@[simp] theorem State.clearTables_res : s.clearTables.res = s.res := rfl
@[simp] theorem State.clearTables_done : s.clearTables.done = s.done := rfl
@[simp] theorem State.clearTables_drop : s.clearTables.drop = s.drop := rfl
@[simp] theorem State.clearTables_flags : s.clearTables.flags = .cleared := rfl
@[simp] theorem State.clearTables_code : s.clearTables.code = s.code := rfl
@[simp] theorem State.clearTables_lastOp : s.clearTables.lastOp = s.lastOp := rfl
@[simp] theorem State.clearTables_engine : s.clearTables.engine = s.engine := rfl
@[simp] theorem State.clearTables_tables : s.clearTables.tables = { s.tables with freq := Vector.replicate 256 0#64 } := rfl
@[simp] theorem State.clearTables_mem : s.clearTables.mem = s.mem := rfl
@[simp] theorem State.clearTables_platform : s.clearTables.platform = s.platform := rfl
@[simp] theorem State.clearTables_inputs : s.clearTables.inputs = s.inputs := rfl
@[simp] theorem State.clearTables_hostData : s.clearTables.hostData = s.hostData := rfl
@[simp] theorem State.clearTables_unseen : s.clearTables.unseen = s.unseen := rfl
@[simp] theorem State.clearTables_draws : s.clearTables.draws = s.draws := rfl

/-! ### issue -/

@[simp] theorem State.issue_irqEn (w : Word) : (s.issue w).irqEn = s.irqEn := rfl
@[simp] theorem State.issue_cfg (w : Word) : (s.issue w).cfg = s.cfg := rfl
@[simp] theorem State.issue_res (w : Word) : (s.issue w).res = s.res := rfl
@[simp] theorem State.issue_done (w : Word) : (s.issue w).done = false := rfl
@[simp] theorem State.issue_drop (w : Word) : (s.issue w).drop = s.drop := rfl
@[simp] theorem State.issue_flags (w : Word) : (s.issue w).flags = s.flags := rfl
@[simp] theorem State.issue_code (w : Word) : (s.issue w).code = .ok := rfl
@[simp] theorem State.issue_lastOp (w : Word) : (s.issue w).lastOp = w.extractLsb' 0 8 := rfl
@[simp] theorem State.issue_engine (w : Word) : (s.issue w).engine = some { word := w, ops := s.cfg } := rfl
@[simp] theorem State.issue_tables (w : Word) : (s.issue w).tables = s.tables := rfl
@[simp] theorem State.issue_mem (w : Word) : (s.issue w).mem = s.mem := rfl
@[simp] theorem State.issue_platform (w : Word) : (s.issue w).platform = s.platform := rfl
@[simp] theorem State.issue_inputs (w : Word) : (s.issue w).inputs = s.inputs := rfl
@[simp] theorem State.issue_hostData (w : Word) : (s.issue w).hostData = s.hostData := rfl
@[simp] theorem State.issue_unseen (w : Word) : (s.issue w).unseen = s.unseen := rfl
@[simp] theorem State.issue_draws (w : Word) : (s.issue w).draws = s.draws := rfl

/-! ### writeStatus -/

@[simp] theorem State.writeStatus_irqEn (v : Word) : (s.writeStatus v).irqEn = s.irqEn := rfl
@[simp] theorem State.writeStatus_cfg (v : Word) : (s.writeStatus v).cfg = s.cfg := rfl
@[simp] theorem State.writeStatus_res (v : Word) : (s.writeStatus v).res = s.res := rfl
@[simp] theorem State.writeStatus_done (v : Word) : (s.writeStatus v).done = (s.done && !v.getLsbD 1) := rfl
@[simp] theorem State.writeStatus_drop (v : Word) : (s.writeStatus v).drop = (s.drop && !v.getLsbD 3) := rfl
@[simp] theorem State.writeStatus_flags (v : Word) : (s.writeStatus v).flags = s.flags := rfl
@[simp] theorem State.writeStatus_code (v : Word) : (s.writeStatus v).code = s.code := rfl
@[simp] theorem State.writeStatus_lastOp (v : Word) : (s.writeStatus v).lastOp = s.lastOp := rfl
@[simp] theorem State.writeStatus_engine (v : Word) : (s.writeStatus v).engine = s.engine := rfl
@[simp] theorem State.writeStatus_tables (v : Word) : (s.writeStatus v).tables = s.tables := rfl
@[simp] theorem State.writeStatus_mem (v : Word) : (s.writeStatus v).mem = s.mem := rfl
@[simp] theorem State.writeStatus_platform (v : Word) : (s.writeStatus v).platform = s.platform := rfl
@[simp] theorem State.writeStatus_inputs (v : Word) : (s.writeStatus v).inputs = s.inputs := rfl
@[simp] theorem State.writeStatus_hostData (v : Word) : (s.writeStatus v).hostData = s.hostData := rfl
@[simp] theorem State.writeStatus_unseen (v : Word) : (s.writeStatus v).unseen = s.unseen := rfl
@[simp] theorem State.writeStatus_draws (v : Word) : (s.writeStatus v).draws = s.draws := rfl

/-! ### writeCtrl -/

@[simp] theorem State.writeCtrl_irqEn (v : Word) : (s.writeCtrl v).irqEn = v.getLsbD 0 := rfl
@[simp] theorem State.writeCtrl_cfg (v : Word) : (s.writeCtrl v).cfg = s.cfg := rfl
@[simp] theorem State.writeCtrl_res (v : Word) : (s.writeCtrl v).res = s.res := rfl
@[simp] theorem State.writeCtrl_done (v : Word) : (s.writeCtrl v).done = s.done := rfl
@[simp] theorem State.writeCtrl_drop (v : Word) : (s.writeCtrl v).drop = s.drop := rfl
@[simp] theorem State.writeCtrl_flags (v : Word) : (s.writeCtrl v).flags = s.flags := rfl
@[simp] theorem State.writeCtrl_code (v : Word) : (s.writeCtrl v).code = s.code := rfl
@[simp] theorem State.writeCtrl_lastOp (v : Word) : (s.writeCtrl v).lastOp = s.lastOp := rfl
@[simp] theorem State.writeCtrl_engine (v : Word) : (s.writeCtrl v).engine = s.engine := rfl
@[simp] theorem State.writeCtrl_tables (v : Word) : (s.writeCtrl v).tables = s.tables := rfl
@[simp] theorem State.writeCtrl_mem (v : Word) : (s.writeCtrl v).mem = s.mem := rfl
@[simp] theorem State.writeCtrl_platform (v : Word) : (s.writeCtrl v).platform = s.platform := rfl
@[simp] theorem State.writeCtrl_inputs (v : Word) : (s.writeCtrl v).inputs = s.inputs := rfl
@[simp] theorem State.writeCtrl_hostData (v : Word) : (s.writeCtrl v).hostData = s.hostData := rfl
@[simp] theorem State.writeCtrl_unseen (v : Word) : (s.writeCtrl v).unseen = s.unseen := rfl
@[simp] theorem State.writeCtrl_draws (v : Word) : (s.writeCtrl v).draws = s.draws := rfl

/-! ### dropWrite -/

@[simp] theorem State.dropWrite_irqEn : s.dropWrite.irqEn = s.irqEn := rfl
@[simp] theorem State.dropWrite_cfg : s.dropWrite.cfg = s.cfg := rfl
@[simp] theorem State.dropWrite_res : s.dropWrite.res = s.res := rfl
@[simp] theorem State.dropWrite_done : s.dropWrite.done = s.done := rfl
@[simp] theorem State.dropWrite_drop : s.dropWrite.drop = true := rfl
@[simp] theorem State.dropWrite_flags : s.dropWrite.flags = s.flags := rfl
@[simp] theorem State.dropWrite_code : s.dropWrite.code = s.code := rfl
@[simp] theorem State.dropWrite_lastOp : s.dropWrite.lastOp = s.lastOp := rfl
@[simp] theorem State.dropWrite_engine : s.dropWrite.engine = s.engine := rfl
@[simp] theorem State.dropWrite_tables : s.dropWrite.tables = s.tables := rfl
@[simp] theorem State.dropWrite_mem : s.dropWrite.mem = s.mem := rfl
@[simp] theorem State.dropWrite_platform : s.dropWrite.platform = s.platform := rfl
@[simp] theorem State.dropWrite_inputs : s.dropWrite.inputs = s.inputs := rfl
@[simp] theorem State.dropWrite_hostData : s.dropWrite.hostData = s.hostData := rfl
@[simp] theorem State.dropWrite_unseen : s.dropWrite.unseen = s.unseen := rfl
@[simp] theorem State.dropWrite_draws : s.dropWrite.draws = s.draws := rfl

/-! ### deliver -/

@[simp] theorem State.deliver_irqEn (v : Word) : (s.deliver v).irqEn = s.irqEn := rfl
@[simp] theorem State.deliver_cfg (v : Word) : (s.deliver v).cfg = s.cfg := rfl
@[simp] theorem State.deliver_res (v : Word) : (s.deliver v).res = s.res := rfl
@[simp] theorem State.deliver_done (v : Word) : (s.deliver v).done = s.done := rfl
@[simp] theorem State.deliver_drop (v : Word) : (s.deliver v).drop = s.drop := rfl
@[simp] theorem State.deliver_flags (v : Word) : (s.deliver v).flags = s.flags := rfl
@[simp] theorem State.deliver_code (v : Word) : (s.deliver v).code = s.code := rfl
@[simp] theorem State.deliver_lastOp (v : Word) : (s.deliver v).lastOp = s.lastOp := rfl
@[simp] theorem State.deliver_engine (v : Word) : (s.deliver v).engine = s.engine := rfl
@[simp] theorem State.deliver_tables (v : Word) : (s.deliver v).tables = s.tables := rfl
@[simp] theorem State.deliver_mem (v : Word) : (s.deliver v).mem = s.mem := rfl
@[simp] theorem State.deliver_platform (v : Word) : (s.deliver v).platform = s.platform := rfl
@[simp] theorem State.deliver_inputs (v : Word) : (s.deliver v).inputs = s.inputs := rfl
@[simp] theorem State.deliver_hostData (v : Word) : (s.deliver v).hostData = v := rfl
@[simp] theorem State.deliver_unseen (v : Word) : (s.deliver v).unseen = s.unseen := rfl
@[simp] theorem State.deliver_draws (v : Word) : (s.deliver v).draws = s.draws := rfl

/-! ### deliverFree -/

@[simp] theorem State.deliverFree_irqEn : s.deliverFree.irqEn = s.irqEn := rfl
@[simp] theorem State.deliverFree_cfg : s.deliverFree.cfg = s.cfg := rfl
@[simp] theorem State.deliverFree_res : s.deliverFree.res = s.res := rfl
@[simp] theorem State.deliverFree_done : s.deliverFree.done = s.done := rfl
@[simp] theorem State.deliverFree_drop : s.deliverFree.drop = s.drop := rfl
@[simp] theorem State.deliverFree_flags : s.deliverFree.flags = s.flags := rfl
@[simp] theorem State.deliverFree_code : s.deliverFree.code = s.code := rfl
@[simp] theorem State.deliverFree_lastOp : s.deliverFree.lastOp = s.lastOp := rfl
@[simp] theorem State.deliverFree_engine : s.deliverFree.engine = s.engine := rfl
@[simp] theorem State.deliverFree_tables : s.deliverFree.tables = s.tables := rfl
@[simp] theorem State.deliverFree_mem : s.deliverFree.mem = s.mem := rfl
@[simp] theorem State.deliverFree_platform : s.deliverFree.platform = s.platform := rfl
@[simp] theorem State.deliverFree_inputs : s.deliverFree.inputs = s.inputs := rfl
@[simp] theorem State.deliverFree_hostData : s.deliverFree.hostData = Config.freeWord s.draws := rfl
@[simp] theorem State.deliverFree_unseen : s.deliverFree.unseen = s.unseen := rfl
@[simp] theorem State.deliverFree_draws : s.deliverFree.draws = s.draws + 1 := rfl

/-! ### the ways a command ends, and `ended` of the claims, are completions -/

@[simp] theorem State.finish_eq (n : Nat) : s.finish n = s.complete .ok 0 0 n := rfl
@[simp] theorem State.finishEmpty_eq : s.finishEmpty = s.complete .emptyInput 0 0 0 := rfl
@[simp] theorem State.raise_eq (e : Raise) : s.raise e = s.complete e.code e.addr e.info 0 := rfl
@[simp] theorem State.raiseOpen_eq (o : Operands) (e : Raise) :
    s.raiseOpen o e = (s.openDst o).complete e.code e.addr e.info 0 := rfl

/-- The model's completion is the one the claims write out from R52. -/
theorem State.complete_eq_ended (c : Code) (a i n : Nat) : s.complete c a i n = s.ended c a i n := rfl

@[simp] theorem State.operands_idle (h : s.engine = none) : s.operands = s.cfg := by simp [State.operands, h]
@[simp] theorem State.operands_busy {c : Latched} (h : s.engine = some c) : s.operands = c.ops := by
  simp [State.operands, h]
@[simp] theorem State.busy_complete (c : Code) (a i n : Nat) : (s.complete c a i n).busy = false := rfl
@[simp] theorem State.busy_issue (w : Word) : (s.issue w).busy = true := rfl

theorem State.busy_iff : s.busy = true ↔ ∃ c, s.engine = some c := by
  simp [State.busy, Option.isSome_iff_exists]

end Sys2Proof.Machine
end

