-- ==== Sys2Proof/Laws/Step.lean ====
section
/-! SUPPORT. Once, everything a step, a command and a host operation can do: the inversion lemmas that an invariant's
proof cites instead of unfolding the machine. -/

namespace Sys2Proof.Machine

variable {s t : State}

/-- A step is the next input's action, or the engine's turn when no input is left. -/
theorem step_cases {r : Result} (h : step s = r) :
    (s.inputs = [] ∧ engineTurn s = r) ∨
    ∃ i rest, s.inputs = i :: rest ∧ act { s with inputs := rest } i = r := by
  unfold step at h
  split at h
  · exact .inl ⟨‹_›, h⟩
  · exact .inr ⟨_, _, ‹_›, h⟩

/-- The engine's turn: nothing, a command's meaning, or BAD_COMMAND. -/
theorem engineTurn_cases (h : engineTurn s = .next t) :
    (s.engine = none ∧ t = s) ∨
    (∃ c i, s.engine = some c ∧ decode c.word = .ok i ∧ exec i s = .next t) ∨
    ∃ c r, s.engine = some c ∧ decode c.word = .error r ∧ t = s.raise ⟨.badCommand, 0, c.word.toNat⟩ := by
  unfold engineTurn at h
  split at h
  · exact .inl ⟨‹_›, by simpa using h.symm⟩
  · split at h
    · exact .inr (.inl ⟨_, _, ‹_›, ‹_›, h⟩)
    · exact .inr (.inr ⟨_, _, ‹_›, ‹_›, by simpa using h.symm⟩)

/-- A write to a register: an issue, an update of STATUS, CTRL or a configuration register, a dropped or ignored
write. -/
theorem writeReg_cases (s : State) (r : Reg) (v : Word) :
    (r = .cmd ∧ s.engine = none ∧ s.writeReg r v = s.issue v) ∨
    s.writeReg r v = s.writeStatus v ∨ s.writeReg r v = s.writeCtrl v ∨
    (s.engine = none ∧ ∃ cfg, s.writeReg r v = { s with cfg := cfg }) ∨
    (s.busy = true ∧ s.writeReg r v = s.dropWrite) ∨ s.writeReg r v = s := by
  cases hb : s.engine with
  | none => cases r <;> simp [State.writeReg, State.writeCfg, State.busy, hb]
  | some c => cases r <;> simp [State.writeReg, State.writeCfg, State.busy, hb]

/-- A read of a register changes nothing but what the host knows and the count of draws. -/
theorem hostReadReg_cases (s : State) (r : Reg) :
    ∃ d u n, s.hostReadReg r = { s with hostData := d, unseen := u, draws := n } := by
  unfold State.hostReadReg
  split
  · exact ⟨_, s.unseen, _, rfl⟩
  · split
    · unfold State.seeStatus
      split
      · exact ⟨_, s.unseen, s.draws, rfl⟩
      · exact ⟨_, [], s.draws, rfl⟩
    · exact ⟨_, s.unseen, s.draws, rfl⟩

/-- What one input can do when it answers a next state. -/
theorem act_cases {i : Input} (h : act s i = .next t) :
    (i = .engine ∧ engineTurn s = .next t) ∨
    (∃ a n v, i = .busWrite a n v ∧ (t = s ∨ ∃ r, t = s.writeReg r v)) ∨
    (∃ a n, i = .busRead a n ∧ ∃ d u k, t = { s with hostData := d, unseen := u, draws := k }) ∨
    (∃ a v, i = .memWrite a v ∧ s.races a.toNat = false ∧ t = { s with mem := s.mem.write a.toNat v }) ∨
    (∃ a, i = .memRead a ∧ ∃ d k, t = { s with hostData := d, draws := k }) ∨
    (i = .reset ∧ t = s.applyReset) ∨
    ∃ fs, i = .busMap fs ∧ t = { s with platform := { s.platform with busFaults := fs } } := by
  cases i with
  | engine => exact .inl ⟨rfl, h⟩
  | busWrite a n v =>
    refine .inr (.inl ⟨a, n, v, rfl, ?_⟩)
    simp only [act, hostWrite] at h
    split at h
    · exact .inl (by simpa using h.symm)
    · split at h
      · exact .inr ⟨_, by simpa using h.symm⟩
      · cases h
  | busRead a n =>
    refine .inr (.inr (.inl ⟨a, n, rfl, ?_⟩))
    simp only [act, hostRead] at h
    split at h
    · cases h; exact ⟨_, s.unseen, _, rfl⟩
    · split at h
      · cases h; exact hostReadReg_cases s _
      · cases h
  | memWrite a v =>
    refine .inr (.inr (.inr (.inl ⟨a, v, rfl, ?_⟩)))
    simp only [act, hostStore] at h
    split at h
    · cases h
    · cases h; exact ⟨by simpa using ‹¬s.races a.toNat = true›, rfl⟩
  | memRead a =>
    refine .inr (.inr (.inr (.inr (.inl ⟨a, rfl, ?_⟩))))
    simp only [act, hostLoad] at h
    split at h <;> cases h
    · exact ⟨_, _, rfl⟩
    · exact ⟨_, s.draws, rfl⟩
  | reset => exact .inr (.inr (.inr (.inr (.inr (.inl ⟨rfl, by simpa [act] using h.symm⟩)))))
  | busMap fs => exact .inr (.inr (.inr (.inr (.inr (.inr ⟨fs, rfl, by simpa [act] using h.symm⟩)))))

/-- What abandoning a command can do to the state: memory and the count of draws. -/
theorem abandon_cases (s : State) (c : Latched) :
    s.abandon c = s ∨
    ∃ i, decode c.word = .ok i ∧ usesDst i = true ∧
      s.abandon c = { s with
        mem := s.mem.scramble c.inSrc c.ops.dstAddr.toNat s.draws c.ops.dstCap.toNat
        draws := s.draws + c.ops.dstCap.toNat } := by
  unfold State.abandon
  split
  · exact .inl rfl
  · split
    · exact .inr ⟨_, ‹_›, ‹_›, rfl⟩
    · exact .inl rfl

/-! ### What each command can do, said once -/

theorem execNop_cases (h : execNop s = .next t) : t = s.complete .ok 0 0 0 := by
  rcases checked_cases h with ⟨e, he, -⟩ | ⟨-, rfl⟩
  · simp [precheck, usesSrc, usesDst, checkFlag, needsFlag] at he
  · rfl

theorem execClear_cases (h : execClear s = .next t) : t = s.clearTables.complete .ok 0 0 0 := by
  rcases checked_cases h with ⟨e, he, -⟩ | ⟨-, rfl⟩
  · simp [precheck, usesSrc, usesDst, checkFlag, needsFlag] at he
  · rfl

theorem execCount_cases (h : execCount s = .next t) :
    (∃ e, precheck .count s.flags s.operands = some e ∧ t = s.raise e) ∨
    precheck .count s.flags s.operands = none ∧
      ((∃ bs, readSource s s.operands = .ok bs ∧ t = (s.storeCounts bs).complete .ok 0 0 0) ∨
       ∃ e, readSource s s.operands = .error e ∧ t = s.dropCounts.raise e) := by
  rcases checked_cases h with h | ⟨hp, rfl⟩
  · exact .inl h
  · refine .inr ⟨hp, ?_⟩
    cases hr : readSource s s.operands with
    | ok bs => exact .inl ⟨bs, rfl, rfl⟩
    | error e => exact .inr ⟨e, rfl, rfl⟩

theorem execBuildTree_cases (h : execBuildTree s = .next t) :
    (∃ e, precheck .buildTree s.flags s.operands = some e ∧ t = s.raise e) ∨
    precheck .buildTree s.flags s.operands = none ∧
      ((seeds s.tables.freq = [] ∧ t = s.dropTree.complete .emptyInput 0 0 0) ∨
       (seeds s.tables.freq ≠ [] ∧ t = s.storeTree.complete .ok 0 0 0)) := by
  rcases checked_cases h with h | ⟨hp, rfl⟩
  · exact .inl h
  · refine .inr ⟨hp, ?_⟩
    split
    · exact .inl ⟨‹_›, rfl⟩
    · exact .inr ⟨‹_›, rfl⟩

theorem execBuildTable_cases (h : execBuildTable s = .next t) :
    (∃ e, precheck .buildTable s.flags s.operands = some e ∧ t = s.raise e) ∨
    (precheck .buildTable s.flags s.operands = none ∧ t = s.storeCodes.complete .ok 0 0 0) :=
  checked_cases h

theorem execEncode_cases (h : execEncode s = .next t) :
    (∃ e, precheck .encode s.flags s.operands = some e ∧ t = s.raise e) ∨
    precheck .encode s.flags s.operands = none ∧
      ((∃ bits m, encodeRange s s.operands = .ok (bits, m) ∧
        t = (s.storeEncoded s.operands bits.length m).complete .ok 0 0 (ceilDiv bits.length 8)) ∨
       ∃ e, encodeRange s s.operands = .error e ∧ t = s.raiseOpen s.operands e) := by
  rcases checked_cases h with h | ⟨hp, rfl⟩
  · exact .inl h
  · refine .inr ⟨hp, ?_⟩
    cases hr : encodeRange s s.operands with
    | ok x => exact .inl ⟨x.1, x.2, rfl, rfl⟩
    | error e => exact .inr ⟨e, rfl, rfl⟩

theorem execDecode_cases (h : execDecode s = .next t) :
    (∃ e, precheck .decode s.flags s.operands = some e ∧ t = s.raise e) ∨
    precheck .decode s.flags s.operands = none ∧
      ((∃ m, decodeStream s.platform s.tables.dt s.operands.decodeJob s.mem = .ok m ∧
        t = (s.storeMem m).complete .ok 0 0 s.operands.origLen.toNat) ∨
       ∃ e, decodeStream s.platform s.tables.dt s.operands.decodeJob s.mem = .error e ∧
        t = s.raiseOpen s.operands e) := by
  rcases checked_cases h with h | ⟨hp, rfl⟩
  · exact .inl h
  · refine .inr ⟨hp, ?_⟩
    cases hr : decodeStream s.platform s.tables.dt s.operands.decodeJob s.mem with
    | ok m => exact .inl ⟨m, rfl, rfl⟩
    | error e => exact .inr ⟨e, rfl, rfl⟩

theorem execSerialize_cases (h : execSerialize s = .next t) :
    (∃ e, precheck .serialize s.flags s.operands = some e ∧ t = s.raise e) ∨
    precheck .serialize s.flags s.operands = none ∧
      ((∃ m, serializeRange s s.operands = .ok m ∧
        t = (s.storeSerialized m).complete .ok 0 0 (serializedLen s s.operands)) ∨
       ∃ e, serializeRange s s.operands = .error e ∧ t = s.raiseOpen s.operands e) := by
  rcases checked_cases h with h | ⟨hp, rfl⟩
  · exact .inl h
  · refine .inr ⟨hp, ?_⟩
    cases hr : serializeRange s s.operands with
    | ok m => exact .inl ⟨m, rfl, rfl⟩
    | error e => exact .inr ⟨e, rfl, rfl⟩

theorem execDeserialize_cases (h : execDeserialize s = .next t) :
    (∃ e, precheck .deserialize s.flags s.operands = some e ∧ t = s.raise e) ∨
    precheck .deserialize s.flags s.operands = none ∧
      ((∃ c, parseContainer s.platform s.mem s.operands.srcAddr.toNat s.operands.srcLen.toNat = .ok c ∧
        t = ((s.storeDt c.entries).storeParsed s.operands c).complete .ok 0 0 0) ∨
       ∃ e, parseContainer s.platform s.mem s.operands.srcAddr.toNat s.operands.srcLen.toNat = .error e ∧
        t = s.dropDt.raise e) := by
  rcases checked_cases h with h | ⟨hp, rfl⟩
  · exact .inl h
  · refine .inr ⟨hp, ?_⟩
    cases hr : parseContainer s.platform s.mem s.operands.srcAddr.toNat s.operands.srcLen.toNat with
    | ok c => exact .inl ⟨c, rfl, rfl⟩
    | error e => exact .inr ⟨e, rfl, rfl⟩

/-- Stages 4 and 5 of COMPRESS end OK with the container written, or with an error. -/
theorem compressTail_cases (s : State) (o : Operands) :
    (∃ m, writeContainer s o = .ok m ∧
      s.compressTail o = (s.storeCompressed o m).complete .ok 0 0 (containerLen s.tables)) ∨
    ∃ e, writeContainer s o = .error e ∧ s.compressTail o = s.raiseOpen o e := by
  unfold State.compressTail
  cases hr : writeContainer s o with
  | ok m => exact .inl ⟨m, rfl, rfl⟩
  | error e => exact .inr ⟨e, rfl, rfl⟩

theorem execCompress_cases (h : execCompress s = .next t) :
    (∃ e, precheck .compress s.flags s.operands = some e ∧ t = s.raise e) ∨
    precheck .compress s.flags s.operands = none ∧
      ((∃ e, readSource s s.operands = .error e ∧ t = s.dropCounts.raiseOpen s.operands e) ∨
       ∃ bs, readSource s s.operands = .ok bs ∧
        ((seeds (countBytes bs) = [] ∧ t = (s.storeCounts bs).dropTree.complete .emptyInput 0 0 0) ∨
         (seeds (countBytes bs) ≠ [] ∧
          t = ((s.storeCounts bs).storeTree.storeCodes).compressTail s.operands))) := by
  rcases checked_cases h with h | ⟨hp, rfl⟩
  · exact .inl h
  · refine .inr ⟨hp, ?_⟩
    cases hr : readSource s s.operands with
    | error e => exact .inl ⟨e, rfl, rfl⟩
    | ok bs =>
      refine .inr ⟨bs, rfl, ?_⟩
      dsimp only
      split
      · exact .inl ⟨‹_›, rfl⟩
      · exact .inr ⟨‹_›, rfl⟩

theorem execDecompress_cases (h : execDecompress s = .next t) :
    (∃ e, precheck .decompress s.flags s.operands = some e ∧ t = s.raise e) ∨
    precheck .decompress s.flags s.operands = none ∧
      ((∃ e, parseContainer s.platform s.mem s.operands.srcAddr.toNat s.operands.srcLen.toNat = .error e ∧
        t = s.dropDt.raiseOpen s.operands e) ∨
       ∃ c, parseContainer s.platform s.mem s.operands.srcAddr.toNat s.operands.srcLen.toNat = .ok c ∧
        ((∃ e, decodeStream s.platform c.entries (s.operands.payloadJob c) s.mem = .error e ∧
          t = (s.storeDt c.entries).raiseOpen s.operands e) ∨
         ∃ m, decodeStream s.platform c.entries (s.operands.payloadJob c) s.mem = .ok m ∧
          t = (((s.storeDt c.entries).storeMem m).storeParsed s.operands c).complete .ok 0 0 c.orig)) := by
  rcases checked_cases h with h | ⟨hp, rfl⟩
  · exact .inl h
  · refine .inr ⟨hp, ?_⟩
    cases hr : parseContainer s.platform s.mem s.operands.srcAddr.toNat s.operands.srcLen.toNat with
    | error e => exact .inl ⟨e, rfl, rfl⟩
    | ok c =>
      refine .inr ⟨c, rfl, ?_⟩
      dsimp only
      cases hd : decodeStream s.platform c.entries (s.operands.payloadJob c) s.mem with
      | error e => exact .inl ⟨e, rfl, rfl⟩
      | ok m => exact .inr ⟨m, rfl, rfl⟩

/-- The reset state's memory is in canonical form. -/
theorem reset_mem_wf : State.reset.mem.wf := Memory.wf_nil

end Sys2Proof.Machine
end

