-- ==== Sys2Proof/Laws/Table.lean ====
section
/-! SUPPORT. The laws of tables with one entry per symbol. -/

namespace Sys2Proof.Machine

@[simp] theorem Table.at_put_same {α : Type} (t : Table α) (b : Byte) (v : α) : (t.put b v).at b = v := by
  simp [Table.at, Table.put]

theorem Table.at_put_other {α : Type} (t : Table α) {b c : Byte} (v : α) (h : b ≠ c) :
    (t.put b v).at c = t.at c := by
  have hn : b.toNat ≠ c.toNat := fun e => h (BitVec.eq_of_toNat_eq e)
  simp [Table.at, Table.put, hn]

theorem Table.at_put {α : Type} (t : Table α) (b c : Byte) (v : α) :
    (t.put b v).at c = if b = c then v else t.at c := by
  split
  · subst_vars; simp
  · exact Table.at_put_other t v ‹_›

@[simp] theorem Table.at_replicate {α : Type} (v : α) (b : Byte) :
    Table.at (Vector.replicate 256 v) b = v := by
  simp [Table.at]

theorem Table.ext_at {α : Type} {t u : Table α} (h : ∀ b, t.at b = u.at b) : t = u := by
  apply Vector.ext
  intro i hi
  have hb := h (BitVec.ofNat 8 i)
  have hm : i % 256 = i := Nat.mod_eq_of_lt hi
  simpa [Table.at, BitVec.toNat_ofNat, hm] using hb

@[simp] theorem length_allBytes : allBytes.length = 256 := by simp [allBytes]

theorem getElem_allBytes (i : Nat) (h : i < allBytes.length) : allBytes[i] = BitVec.ofNat 8 i := by
  simp [allBytes]

@[simp] theorem mem_allBytes (b : Byte) : b ∈ allBytes := by
  simp only [allBytes, List.mem_map, List.mem_range]
  exact ⟨b.toNat, b.isLt, by simp⟩

theorem nodup_allBytes : allBytes.Nodup := by
  rw [allBytes, List.nodup_map_iff_inj_on List.nodup_range]
  intro x hx y hy h
  have hx' := List.mem_range.1 hx
  have hy' := List.mem_range.1 hy
  have h2 := congrArg BitVec.toNat h
  simp only [BitVec.toNat_ofNat] at h2
  omega

theorem Table.toList_eq_map {α : Type} (t : Table α) : t.toList = allBytes.map t.at := by
  apply List.ext_getElem
  · simp
  · intro i h1 h2
    have hi : i < 256 := by simpa using h1
    simp [Table.at, allBytes, Nat.mod_eq_of_lt hi]

theorem Table.entries_eq_map {α : Type} (t : Table α) : t.entries = allBytes.map fun b => (b, t.at b) := by
  rw [Table.entries, Table.toList_eq_map, List.zip_map_right]
  rw [show allBytes.zip allBytes = allBytes.map fun b => (b, b) from ?_]
  · simp [List.map_map, Function.comp_def]
  · apply List.ext_getElem
    · simp
    · intro i h1 h2; simp

theorem Table.mem_entries {α : Type} (t : Table α) (b : Byte) (v : α) : (b, v) ∈ t.entries ↔ t.at b = v := by
  simp [Table.entries_eq_map]

end Sys2Proof.Machine
end

