-- ==== Sys2Proof/Tests/Slice0.lean ====
section
/-! SUPPORT. The model's own tests. Expected values are those of spec/95_test_vectors.md (its vector's name in the
comment) or of the rule named; then, for every statement that has hypotheses, states that meet them all. -/

namespace Sys2Proof.Tests

open Sys2Proof.Machine

/-! ### Helpers -/

/-- Bytes written as numbers. -/
def bytes (l : List Nat) : List Byte := l.map (BitVec.ofNat 8)

/-- Memory holding `bs` from `a` upward and nothing else. -/
def memOf (a : Nat) (bs : List Nat) : Memory := Memory.writeAll [] a (bytes bs)

/-- The configuration registers SRC_ADDR, SRC_LEN, DST_ADDR, DST_CAP, ORIG_LEN. -/
def ops (a b c d e : Nat) : Operands :=
  ⟨BitVec.ofNat 64 a, BitVec.ofNat 64 b, BitVec.ofNat 64 c, BitVec.ofNat 64 d, BitVec.ofNat 64 e⟩

/-- From reset, with this memory and these configuration registers. -/
def ready (m : Memory) (o : Operands) : State := { State.reset with mem := m, cfg := o }

/-- The next state of an outcome that is one. -/
def after (r : Result) : State :=
  match r with
  | .next t => t
  | .fault _ => { State.reset with hostData := 0xFA017#64 }
  | .refused _ => { State.reset with hostData := 0xEF05ED#64 }

/-- The outcome is a next state. -/
def isNext (r : Result) : Bool :=
  match r with
  | .next _ => true
  | .fault _ | .refused _ => false

theorem next_after {r : Result} (h : isNext r = true) : r = .next (after r) := by
  cases r <;> simp_all [isNext, after]

/-- One command: the word is latched and the engine has its turn. -/
def run (op : Nat) (s : State) : State := after (step (s.withFetchWord 64 op))

/-- These are the host's and the platform's next operations. -/
def next (s : State) (l : List Input) : State := { s with inputs := l }

/-- One access in this direction at this address fails. -/
def failing (d : Dir) (a : Nat) (s : State) : State :=
  { s with platform := { s.platform with busFaults := ⟨d, a, 1⟩ :: s.platform.busFaults } }

/-- A command in flight: `w` issued and no input left. -/
def flying (w : Nat) (s : State) : State := s.issue (BitVec.ofNat 64 w)

/-- `built(x)` of 95_test_vectors.md: x at 0x1000, counted, its tree and its code table built. -/
def built (x : List Nat) : State := run 3 (run 2 (run 1 (ready (memOf 0x1000 x) (ops 0x1000 x.length 0 0 0))))

/-- `deser(c)` of 95_test_vectors.md: c at 0x4000, deserialized. -/
def deser (c : List Nat) : State := run 7 (ready (memOf 0x4000 c) (ops 0x4000 c.length 0 0 0))

/-- The 64-bit integer `n` below 256, little-endian. -/
def small (n : Nat) : List Nat := [n, 0, 0, 0, 0, 0, 0, 0]

def abc : List Nat := [0x61, 0x62, 0x63]
def aab : List Nat := [0x61, 0x61, 0x62]

/-- The container of "aaaaaaaaab" (30_encoding.md R85; 46_pipeline_control.md R181's example). -/
def nineA : List Nat := small 10 ++ small 5 ++ [0x61, 0x31, 0x00, 0x62, 0x30, 0xFF, 0x80]

/-- DT1 of 95_test_vectors.md. -/
def dt1 : List DtEntry := [⟨0x61#8, [true]⟩, ⟨0x62#8, [false]⟩]

/-- DT2 of 95_test_vectors.md. -/
def dt2 : List DtEntry := [⟨0x61#8, [false, false]⟩, ⟨0x62#8, [false, true]⟩]

/-- A state with a valid decoding table, this payload at 0x6000, and the destination at 0x8000. -/
def decoding (dt : List DtEntry) (payload : List Nat) (len cap orig : Nat) : State :=
  { ready (memOf 0x6000 payload) (ops 0x6000 len 0x8000 cap orig) with
    tables := { Tables.blank with dt := dt }, flags := { Flags.cleared with dtableValid := true } }

theorem readable_all {s : State} (h : s.platform.busFaults = []) (a n : Nat) : Readable s.platform a n :=
  fun _ _ _ => busOk_of_no_faults h _ _

theorem writable_all {s : State} (h : s.platform.busFaults = []) (a n : Nat) : Writable s.platform a n :=
  fun _ _ _ => busOk_of_no_faults h _ _

theorem dt1_sound : DtSound dt1 := ⟨by decide, by decide, by decide, by decide⟩
theorem dt2_sound : DtSound dt2 := ⟨by decide, by decide, by decide, by decide⟩

/-! ### Well-formedness: an ill-formed term for each check -/

/-- A reserved bit is set (R80, R82): bit 8, the lowest, and bit 63, the highest. -/
theorem test_wf_reserved_bit :
    CmdFields.rsvOk ⟨0x01#8, 0x1#56⟩ = false ∧ CmdFields.wellFormed ⟨0x01#8, 0x1#56⟩ = false ∧
    CmdFields.wellFormed (.ofWord 0x8000000000000001#64) = false := by decide

/-- A reserved opcode (R81, R82): 0x0B, the lowest, and 0xFF, the highest. -/
theorem test_wf_reserved_opcode :
    CmdFields.opOk ⟨0x0B#8, 0#56⟩ = false ∧ CmdFields.wellFormed ⟨0x0B#8, 0#56⟩ = false ∧
    CmdFields.wellFormed ⟨0xFF#8, 0#56⟩ = false ∧ CmdFields.wellFormed ⟨0x0A#8, 0#56⟩ = true := by decide

/-- The canonical form of memory refuses an unsorted list, a repeated address, a listed blank byte and an address past
the top. -/
theorem test_wf_memory :
    ¬ Memory.wf [(2, 1#8), (1, 1#8)] ∧ ¬ Memory.wf [(1, 1#8), (1, 2#8)] ∧ ¬ Memory.wf [(1, 0#8)] ∧
    ¬ Memory.wf [(2 ^ 64, 1#8)] ∧ Memory.wf [(1, 1#8), (2 ^ 64 - 1, 2#8)] := by decide +kernel

/-! ### Decoding: every row of R81, the word written out from its fields (R80: RSV in 63:8, OP in 7:0) -/

/-- A command word written out: RSV, then OP bit by bit. -/
def word (op : Byte) : Word := 0b00000000000000000000000000000000000000000000000000000000#56 ++ op

theorem test_decode_nop : decode (word 0b00000000#8) = .ok .nop := by decide
theorem test_decode_count : decode (word 0b00000001#8) = .ok .count := by decide
theorem test_decode_build_tree : decode (word 0b00000010#8) = .ok .buildTree := by decide
theorem test_decode_build_table : decode (word 0b00000011#8) = .ok .buildTable := by decide
theorem test_decode_encode : decode (word 0b00000100#8) = .ok .encode := by decide
theorem test_decode_decode : decode (word 0b00000101#8) = .ok .decode := by decide
theorem test_decode_serialize : decode (word 0b00000110#8) = .ok .serialize := by decide
theorem test_decode_deserialize : decode (word 0b00000111#8) = .ok .deserialize := by decide
theorem test_decode_compress : decode (word 0b00001000#8) = .ok .compress := by decide
theorem test_decode_decompress : decode (word 0b00001001#8) = .ok .decompress := by decide
theorem test_decode_clear : decode (word 0b00001010#8) = .ok .clear := by decide

/-- Words outside R81 (R82). -/
theorem test_decode_illegal :
    decode (word 0b00001011#8) = .error .unknownOpcode ∧ decode (word 0b11111111#8) = .error .unknownOpcode ∧
    decode 0x0000000000000100#64 = .error .reservedBits ∧ decode 0x8000000000000000#64 = .error .reservedBits := by
  decide

/-- The table's numbering of bits: a word of 64 bits, and bits above `nbits` read as 0. -/
theorem test_decode_table_word :
    decodeTableWord 64 0x09 = some .decompress ∧ decodeTableWord 64 0x109 = none ∧
    decodeTableWord 8 0x109 = some .decompress := by decide

/-! ### The commands, one step each -/

/-- V-C1. -/
theorem test_count : let s := run 1 (ready (memOf 0x1000 (List.replicate 9 0x61 ++ [0x62])) (ops 0x1000 10 0 0 0))
    s.statusWord = 0x010012#64 ∧ s.tables.freq.at 0x61#8 = 9#64 ∧ s.tables.freq.at 0x62#8 = 1#64 ∧
    s.tables.freq.at 0x63#8 = 0#64 := by decide +kernel

/-- V-C3. -/
theorem test_count_io_error :
    let s := run 1 (failing .read 0x1003 (ready (memOf 0x1000 [0x68, 0x65, 0x6C, 0x6C, 0x6F]) (ops 0x1000 5 0 0 0)))
    s.statusWord = 0x011006#64 ∧ s.res.errAddr = 0x1003#64 ∧ s.res.errInfo = 0#64 ∧ s.tables.freq.at 0x68#8 = 0#64 :=
  by decide +kernel

/-- V-BT3: of two keys of 2 the leaf pops before the internal node. -/
theorem test_build_tree : let s := run 2 (run 1 (ready (memOf 0x1000 [0, 0, 1, 2]) (ops 0x1000 4 0 0 0)))
    s.statusWord = 0x020032#64 ∧ s.tables.root = 4 ∧
    s.tables.nodes = [.leaf 0#8, .leaf 1#8, .leaf 2#8, .internal 1 2, .internal 0 3] := by decide +kernel

/-- V-BT7. -/
theorem test_build_tree_empty : (run 2 (run 1 (ready [] (ops 0x1000 0 0 0 0)))).statusWord = 0x020112#64 := by
  decide +kernel

/-- V-TB4: A "1110", and CODE_WIN[0x41][0] = 0x7. -/
theorem test_build_table :
    let s := built [0x41, 0x42, 0x43, 0x43, 0x44, 0x44, 0x44, 0x45, 0x45, 0x45, 0x45, 0x45]
    s.statusWord = 0x030072#64 ∧ s.tables.codes.at 0x41#8 = [true, true, true, false] ∧
    s.tables.codes.at 0x45#8 = [false] ∧ s.readReg (.codeWin 0x41#8 0#2) = 0x7#64 ∧ s.readReg .etMaxlen = 4#64 := by
  decide +kernel

/-- V-TB5: the only symbol's code is "0". -/
theorem test_build_table_single : let s := built [0x41, 0x41, 0x41, 0x41, 0x41]
    s.tables.codes.at 0x41#8 = [false] ∧ s.readReg .etCount = 1#64 := by decide +kernel

/-- V-E1. -/
theorem test_encode : let s := run 4 { built abc with cfg := ops 0x1000 3 0x8000 8 0 }
    s.statusWord = 0x040072#64 ∧ s.mem.bytes 0x8000 2 = bytes [0xB0, 0x00] ∧ s.res.payloadBits = 5#64 ∧
    s.cfg.origLen = 3#64 ∧ s.res.resultLen = 1#64 := by decide +kernel

/-- V-E3: the byte without a code comes before the read that would fail. -/
theorem test_encode_missing_code :
    let s := run 4 (failing .read 0x1004 { built [0x61, 0x62, 0x63, 0x61, 0x62] with
      mem := memOf 0x1000 [0x61, 0x62, 0x7A, 0x61, 0x62], cfg := ops 0x1000 5 0x8000 8 0 })
    s.statusWord = 0x041176#64 ∧ s.res.errAddr = 0x1002#64 ∧ s.res.errInfo = 0x7A#64 := by decide +kernel

/-- V-D5: the pad bits and the byte after the last bit used are not looked at. -/
theorem test_decode : let s := run 5 (decoding dt2 [0x4F, 0xFF] 2 64 1)
    s.statusWord = 0x050082#64 ∧ s.mem.bytes 0x8000 2 = bytes [0x62, 0x00] ∧ s.res.resultLen = 1#64 := by
  decide +kernel

/-- V-D2: no code begins "10". -/
theorem test_decode_no_match : let s := run 5 (decoding dt2 [0x80] 1 4 1)
    s.statusWord = 0x051486#64 ∧ s.res.errAddr = 0x6000#64 ∧ s.res.errInfo = 2#64 := by decide +kernel

/-- V-S4: ORIG_LEN is not checked, and is stored least significant byte first. -/
theorem test_serialize : let s := run 6 { built abc with cfg := ops 0x3000 0 0x2000 64 0x0123456789ABCDEF }
    s.statusWord = 0x060072#64 ∧ s.res.resultLen = 26#64 ∧ s.mem.bytes 0x2000 26 =
      bytes ([0xEF, 0xCD, 0xAB, 0x89, 0x67, 0x45, 0x23, 0x01] ++ small 0x0A ++
        [0x61, 0x31, 0x30, 0x00, 0x62, 0x31, 0x31, 0x00, 0x63, 0x30]) := by decide +kernel

/-- V-S3. -/
theorem test_serialize_capacity :
    let s := run 6 { built (List.replicate 9 0x61 ++ [0x62]) with cfg := ops 0x3000 2 0x2000 22 10 }
    s.code = .capacityExceeded ∧ s.res.errAddr = 0x2000#64 ∧ s.res.errInfo = 23#64 := by decide +kernel

/-- V-DS16: a symbol 0x00 right after a separator. -/
theorem test_deserialize : let s := deser (small 2 ++ small 6 ++ [0x61, 0x30, 0x00, 0x00, 0x31, 0x30])
    s.statusWord = 0x070082#64 ∧ s.tables.dt = [⟨0x61#8, [false]⟩, ⟨0x00#8, [true, false]⟩] := by decide +kernel

/-- V-DS20: an address past the top is recorded modulo 2^64. -/
theorem test_deserialize_at_the_top : let s := run 7 (ready [] (ops (2 ^ 64 - 1) 1 0 0 0))
    s.statusWord = 0x071206#64 ∧ s.res.errAddr = 0#64 ∧ s.res.errInfo = 16#64 := by decide +kernel

/-- V-CP5. -/
theorem test_compress : let s := run 8 (ready (memOf 0x1000 [0, 0, 1]) (ops 0x1000 3 0x2000 4096 0))
    s.statusWord = 0x080072#64 ∧ s.res.resultLen = 22#64 ∧
    s.mem.bytes 0x2000 22 = bytes (small 3 ++ small 5 ++ [0x00, 0x31, 0x00, 0x01, 0x30, 0xC0]) := by decide +kernel

/-- V-CP10. -/
theorem test_compress_nothing : (run 8 (ready [] (ops 0x1000 0 0x2000 4096 0))).statusWord = 0x080112#64 := by
  decide +kernel

/-- 95_test_vectors.md 1.5: the container of "aaaaaaaaab" decompresses to it. -/
theorem test_decompress : let s := run 9 (ready (memOf 0x4000 nineA) (ops 0x4000 23 0x6000 16 0))
    s.statusWord = 0x090082#64 ∧ s.mem.bytes 0x6000 10 = bytes (List.replicate 9 0x61 ++ [0x62]) ∧
    s.res.payloadAddr = 0x4015#64 ∧ s.res.payloadLen = 2#64 := by decide +kernel

/-- 95_test_vectors.md 1.6: the container cut after its first payload byte. -/
theorem test_decompress_truncated : let s := run 9 (ready (memOf 0x4000 nineA) (ops 0x4000 22 0x6000 10 0))
    s.statusWord = 0x091486#64 ∧ s.res.errAddr = 0x4016#64 ∧ s.res.errInfo = 8#64 ∧ s.res.resultLen = 0#64 := by
  decide +kernel

/-- NOP leaves every table as it was (R183's example). -/
theorem test_nop : let s := built aab
    (run 0 s).statusWord = 0x000072#64 ∧ (run 0 s).tables.nodes = s.tables.nodes := by decide +kernel

/-- CLEAR (R184's example): no flag, and every window 0. -/
theorem test_clear : let s := run 10 (built aab)
    s.statusWord = 0x0A0002#64 ∧ s.tables.freq.at 0x61#8 = 0#64 ∧ s.readReg (.clenWin 0x61#8) = 0#64 := by
  decide +kernel

/-- V-P2 and V-P3: a range that wraps, and one that ends exactly at the top. -/
theorem test_precheck_wrap :
    (run 1 (ready [] (ops (2 ^ 64 - 2) 3 0 0 0))).statusWord = 0x012106#64 ∧
    (run 1 (ready [] (ops (2 ^ 64 - 3) 3 0 0 0))).statusWord = 0x010012#64 := by decide +kernel

/-- V-P20: BAD_COMMAND carries the whole word, LAST_OP its low byte. -/
theorem test_bad_command : let s := run 0x100 (built aab)
    s.statusWord = 0x002076#64 ∧ s.res.errInfo = 0x100#64 := by decide +kernel

/-! ### States that meet the hypotheses of the statements, each clause at its boundary values -/

/-- A busy state: COMPRESS in flight with source [0x1000, 0x1003) and destination [0x2000, 0x2004). -/
def busyCompress : State := flying 8 (ready (memOf 0x1000 abc) (ops 0x1000 3 0x2000 4 0))

theorem witness_illegal_words_lowest : ∃ (s : State) (c : Latched), s.engine = some c ∧ s.inputs = [] ∧ c.word.extractLsb' 8 56 = 0#56 ∧
    (c.word.extractLsb' 0 8).toNat = 0x0B := ⟨flying 0x0B State.reset, _, rfl, rfl, by decide, by decide⟩

theorem witness_illegal_words_reserved : ∃ (s : State) (c : Latched), s.engine = some c ∧ s.inputs = [] ∧
    c.word.extractLsb' 8 56 ≠ 0#56 ∧ (c.word.extractLsb' 0 8).toNat ≤ 0x0A :=
  ⟨flying 0x100 State.reset, _, rfl, rfl, by decide, by decide⟩

theorem witness_illegal_words_turn : ∃ (s : State) (c : Latched) (rest : List Input), s.engine = some c ∧
    s.inputs = .engine :: rest ∧ (c.word.extractLsb' 0 8).toNat = 0x0B :=
  ⟨State.reset.withFetchWord 64 0x0B, _, [], rfl, rfl, by decide⟩

theorem witness_step_runs : ∃ (s : State) (c : Latched) (i : Instr), s.engine = some c ∧ decode c.word = .ok i ∧
    (s.inputs = [] ∨ ∃ (rest : List Input), s.inputs = .engine :: rest) :=
  ⟨flying 1 State.reset, _, .count, rfl, by decide, .inl rfl⟩

theorem witness_step_runs_turn : ∃ (s : State) (c : Latched) (i : Instr) (rest : List Input), s.engine = some c ∧ decode c.word = .ok i ∧ s.inputs = .engine :: rest :=
  ⟨State.reset.withFetchWord 64 1, _, .count, [], rfl, by decide, rfl⟩

theorem witness_accepted_command : ∃ (s : State) (w : Word) (rest : List Input) (i : Instr) (rest' : List Input), s.engine = none ∧
    s.inputs = .busWrite (s.platform.regBase + 0x008#64) 8 w :: rest ∧ decode w = .ok i ∧ rest = .engine :: rest' :=
  ⟨next State.reset [.busWrite 0x008#64 8 4#64, .engine], 4#64, [.engine], .encode, [],
    rfl, by decide, by decide, rfl⟩

theorem witness_writes_while_busy : ∀ off ∈ [0x008, 0x010, 0x018, 0x020, 0x028, 0x030, 0x038, 0x040],
    ∃ (s : State) (v : Word) (rest : List Input), s.busy = true ∧ s.inputs = .busWrite (s.platform.regBase + BitVec.ofNat 64 off) 8 v :: rest :=
  fun off _ => ⟨next busyCompress [.busWrite (0#64 + BitVec.ofNat 64 off) 8 7#64], 7#64, [], rfl, rfl⟩

theorem witness_configuration_registers : ∀ off ∈ [0x020, 0x028, 0x030, 0x038, 0x040], ∃ (s : State) (v : Word) (rest : List Input), s.engine = none ∧
    s.inputs = .busWrite (s.platform.regBase + BitVec.ofNat 64 off) 8 v ::
      .busRead (s.platform.regBase + BitVec.ofNat 64 off) 8 :: rest :=
  fun off _ => ⟨next State.reset [.busWrite (0#64 + BitVec.ofNat 64 off) 8 (-1#64),
    .busRead (0#64 + BitVec.ofNat 64 off) 8], -1#64, [], rfl, rfl⟩

theorem witness_ignored_writes : ∀ off ∈ [0x000, 0x048, 0x3FF8], ∃ (s : State) (v : Word) (rest : List Input), off < 0x4000 ∧ off % 8 = 0 ∧
    off ≠ 0x008 ∧ off ≠ 0x010 ∧ off ≠ 0x018 ∧ (off < 0x020 ∨ 0x040 < off) ∧
    s.inputs = .busWrite (s.platform.regBase + BitVec.ofNat 64 off) 8 v :: rest := by
  intro off h
  refine ⟨next State.reset [.busWrite (0#64 + BitVec.ofNat 64 off) 8 (-1#64)], -1#64, [], ?_, ?_, ?_, ?_, ?_, ?_, rfl⟩ <;>
    (simp at h; omega)

/-- A read of each of these offsets: the reserved ones at their ends, a register, STATUS, the windows' ends, the summary
registers; idle and busy. -/
theorem witness_register_reads : ∀ off ∈ [0x000, 0x010, 0x018, 0x078, 0x080, 0x088, 0x090, 0x098, 0x0A0, 0x7F8, 0x800,
      0xFF8, 0x1000, 0x17F8, 0x1800, 0x1FF8, 0x2000, 0x3FF8], ∀ b : Bool,
    ∃ (s : State) (rest : List Input), s.busy = b ∧ s.inputs = .busRead (s.platform.regBase + BitVec.ofNat 64 off) 8 :: rest := by
  intro off _ b
  cases b
  · exact ⟨next State.reset [.busRead (0#64 + BitVec.ofNat 64 off) 8], [], rfl, rfl⟩
  · exact ⟨next busyCompress [.busRead (0#64 + BitVec.ofNat 64 off) 8], [], rfl, rfl⟩

theorem witness_status_bits_alike : ∃ v v' : Word, v ≠ v' ∧ v.getLsbD 0 = v'.getLsbD 0 ∧ v.getLsbD 1 = v'.getLsbD 1 ∧
    v.getLsbD 3 = v'.getLsbD 3 := ⟨0x2#64, 0x6#64, by decide⟩

/-- Accepted and refused accesses: the last register, a narrow one, a misaligned one, the file's last offset. -/
theorem witness_register_accesses : ∀ p ∈ [(8, 0x3FF8), (4, 0x010), (8, 0x00C), (8, 0x3FFC)], ∃ (s : State) (addr : Word) (v : Word) (rest : List Input),
    (addr - s.platform.regBase).toNat = p.2 ∧ p.2 < 0x4000 ∧ s.inputs = .busWrite addr p.1 v :: rest := by
  intro p h
  refine ⟨next State.reset [.busWrite (BitVec.ofNat 64 p.2) p.1 0#64], BitVec.ofNat 64 p.2, 0#64, [], ?_, ?_, rfl⟩ <;>
    (revert h p; decide)

/-- A step of each input of the interrupt's statement, from a state with DONE = 1 and IRQ_EN = 1. -/
theorem witness_interrupt : ∀ i ∈ [Input.busWrite 0x010#64 8 2#64, .busWrite 0x008#64 8 0#64, .reset,
      .busWrite 0x018#64 8 0#64, .busWrite 0x018#64 8 1#64, .busRead 0x010#64 8],
    isNext (step (next { built aab with irqEn := true } [i])) = true ∧ (built aab).done = true ∧
    (built aab).busy = false ∧ (built aab).platform.regBase = 0#64 := by decide +kernel

theorem witness_reset : ∃ (s : State) (c : Latched) (rest : List Input) (i : Instr), s.mem.wf ∧ s.engine = some c ∧ s.inputs = .reset :: rest ∧ decode c.word = .ok i ∧
    i ∈ [Instr.encode, .decode, .serialize, .compress, .decompress] ∧
    (∀ a ∈ [0x2000, 0x2003], inRange c.ops.dstAddr c.ops.dstCap a = true ∧
      inRange c.ops.srcAddr c.ops.srcLen a = false) ∧
    (∀ a ∈ [0x1FFF, 0x2004], inRange c.ops.dstAddr c.ops.dstCap a = false) ∧
    ∀ a ∈ [0x1000, 0x1002], inRange c.ops.srcAddr c.ops.srcLen a = true :=
  ⟨next busyCompress [.reset], ⟨8#64, ops 0x1000 3 0x2000 4 0⟩, [], .compress,
    by decide +kernel, rfl, rfl, by decide, by decide, by decide, by decide, by decide⟩

/-- A host write at each end of the ranges of a command in flight. -/
theorem witness_host_writes_race : ∀ a ∈ [0x1000, 0x1002, 0x2000, 0x2003], ∃ (s : State) (c : Latched) (i : Instr),
    s.mem.wf ∧ s.engine = some c ∧ decode c.word = .ok i ∧ i = .compress ∧
    (c.ops.srcAddr.toNat ≤ a ∧ a < c.ops.srcAddr.toNat + c.ops.srcLen.toNat ∨
      c.ops.dstAddr.toNat ≤ a ∧ a < c.ops.dstAddr.toNat + c.ops.dstCap.toNat) := by
  intro a ha
  refine ⟨busyCompress, ⟨8#64, ops 0x1000 3 0x2000 4 0⟩, .compress, by decide +kernel, rfl, by decide, rfl, ?_⟩
  revert a; decide +kernel

/-- The same of a command that has completed and whose completion the host has not seen. -/
theorem witness_host_writes_race_unseen : ∃ (s : State) (c : Latched) (i : Instr), s.mem.wf ∧ c ∈ s.unseen ∧
    decode c.word = .ok i ∧ i = .count ∧ c.ops.srcAddr.toNat ≤ 0x1000 ∧
    0x1000 < c.ops.srcAddr.toNat + c.ops.srcLen.toNat :=
  ⟨run 1 (ready (memOf 0x1000 aab) (ops 0x1000 1 0 0 0)), ⟨1#64, ops 0x1000 1 0 0 0⟩, .count, by decide +kernel,
    by decide +kernel, by decide, rfl, by decide, by decide⟩

/-- The hypothesis of a plain write: outside the ranges of COMPRESS, at each end. -/
theorem witness_host_writes_outside : ∀ a ∈ [0xFFF, 0x1003, 0x1FFF, 0x2004], ∃ s : State, s.mem.wf ∧ s.busy = true ∧
    ∀ (c : Latched) (i : Instr), s.engine = some c ∨ c ∈ s.unseen → decode c.word = .ok i →
      inRange c.ops.srcAddr c.ops.srcLen a = false ∧ inRange c.ops.dstAddr c.ops.dstCap a = false := by
  intro a ha
  refine ⟨busyCompress, by decide +kernel, rfl, ?_⟩
  rintro c i (h | h) -
  · cases h; revert a; decide
  · cases h

/-- The same inside the destination registers' range of a COUNT in flight, and inside both ranges of a NOP. -/
theorem witness_host_writes_unused : ∀ p ∈ [(0, Instr.nop, 0x1000), (0, .nop, 0x2000), (1, .count, 0x2000)],
    ∃ (s : State) (c : Latched), s.mem.wf ∧ s.engine = some c ∧ s.unseen = [] ∧ decode c.word = .ok p.2.1 ∧
      (inRange c.ops.srcAddr c.ops.srcLen p.2.2 = true ∨ inRange c.ops.dstAddr c.ops.dstCap p.2.2 = true) ∧
      (p.2.1 ∈ [Instr.count, .encode, .decode, .serialize, .deserialize, .compress, .decompress] →
        inRange c.ops.srcAddr c.ops.srcLen p.2.2 = false) ∧
      (p.2.1 ∈ [Instr.encode, .decode, .serialize, .compress, .decompress] →
        inRange c.ops.dstAddr c.ops.dstCap p.2.2 = false) := by
  intro p hp
  refine ⟨flying p.1 (ready [] (ops 0x1000 1 0x2000 1 0)), ⟨BitVec.ofNat 64 p.1, ops 0x1000 1 0x2000 1 0⟩,
    Memory.wf_nil, rfl, rfl, ?_⟩
  revert p; decide

/-- A host read of a source byte, a destination byte and one outside, while the command is in flight. -/
theorem witness_host_reads : ∃ (s : State) (c : Latched) (i : Instr), s.engine = some c ∧ s.unseen = [] ∧
    decode c.word = .ok i ∧ i ∈ [Instr.encode, .decode, .serialize, .compress, .decompress] ∧
    (∀ a ∈ [0x1000, 0x1002], inRange c.ops.srcAddr c.ops.srcLen a = true) ∧
    (∀ a ∈ [0x2000, 0x2003], inRange c.ops.srcAddr c.ops.srcLen a = false ∧
      inRange c.ops.dstAddr c.ops.dstCap a = true) ∧
    ∀ a ∈ [0xFFF, 0x1003, 0x2004], inRange c.ops.srcAddr c.ops.srcLen a = false ∧
      inRange c.ops.dstAddr c.ops.dstCap a = false :=
  ⟨busyCompress, ⟨8#64, ops 0x1000 3 0x2000 4 0⟩, .compress, rfl, rfl, by decide, by decide, by decide, by decide,
    by decide⟩

/-- The same of a source byte of a COUNT, whose destination registers name that byte too. -/
theorem witness_host_reads_count : ∃ (s : State) (c : Latched) (i : Instr), s.engine = some c ∧ s.unseen = [] ∧
    decode c.word = .ok i ∧ i ∉ [Instr.encode, .decode, .serialize, .compress, .decompress] ∧
    inRange c.ops.srcAddr c.ops.srcLen 0x1000 = true ∧ inRange c.ops.dstAddr c.ops.dstCap 0x1000 = true :=
  ⟨flying 1 (ready [] (ops 0x1000 1 0x1000 1 0)), ⟨1#64, ops 0x1000 1 0x1000 1 0⟩, .count, rfl, rfl, by decide,
    by decide, by decide, by decide⟩

/-- A COUNT in flight over a byte that a completed COMPRESS, not seen by the host, has in its destination range. -/
def countOverUnseen : State :=
  { flying 1 (ready (memOf 0x2000 [0x61]) (ops 0x2000 1 0 0 0)) with unseen := [⟨8#64, ops 0x1000 3 0x2000 4 0⟩] }

theorem witness_host_reads_unseen : ∃ (c d : Latched) (i j : Instr), countOverUnseen.engine = some c ∧
    d ∈ countOverUnseen.unseen ∧ decode c.word = .ok i ∧ decode d.word = .ok j ∧ i = .count ∧ j = .compress ∧
    inRange c.ops.srcAddr c.ops.srcLen 0x2000 = true ∧ inRange d.ops.dstAddr d.ops.dstCap 0x2000 = true :=
  ⟨⟨1#64, ops 0x2000 1 0 0 0⟩, ⟨8#64, ops 0x1000 3 0x2000 4 0⟩, .count, .compress, rfl, .head _, by decide, by decide,
    rfl, rfl, by decide, by decide⟩

/-- R72 (c): the host reads memory's value there. -/
theorem test_source_byte_reads_as_memory :
    (after (step (next countOverUnseen [.memRead 0x2000#64]))).hostData = 0x61#64 := by decide +kernel

theorem witness_output_visible : ∃ (s : State) (a : Word) (rest : List Input), s.engine = none ∧ s.unseen ≠ [] ∧
    s.inputs = .busRead (s.platform.regBase + 0x010#64) 8 :: .memRead a :: rest :=
  ⟨next (built aab) [.busRead 0x010#64 8, .memRead 0x1000#64], 0x1000#64, [], by decide +kernel, by decide +kernel, by decide +kernel⟩

/-! #### Commands -/

/-- A command of each family answers a next state, with each completion code that exec gives (R200). -/
theorem witness_codes :
    (after (exec .nop State.reset)).code = .ok ∧
    (after (exec .buildTree (run 1 State.reset))).code = .emptyInput ∧
    (after (exec .count (failing .read 0 (ready [] (ops 0 1 0 0 0))))).code = .ioError ∧
    (after (exec .encode { built aab with mem := [], cfg := ops 0 1 8 1 0 })).code = .missingCode ∧
    (after (exec .deserialize (ready [] (ops 0 15 0 0 0)))).code = .truncatedFile ∧
    (after (exec .decompress (ready (memOf 0 (small 1)) (ops 0 16 16 0 0)))).code = .malformedTable ∧
    (after (exec .decode (decoding dt2 [0x80] 1 1 1))).code = .malformedStream ∧
    (after (exec .compress (ready [] (ops 0 1 0 1 0)))).code = .badArgument ∧
    (after (exec .serialize (ready [] (ops 0 1 1 1 0)))).code = .sequenceError ∧
    (after (exec .compress (ready [] (ops 0 1 1 1 0)))).code = .capacityExceeded := by decide +kernel

/-- The same outcomes are next states. -/
theorem witness_next : ∀ i ∈ [Instr.nop, .count, .buildTree, .buildTable, .encode, .decode, .serialize, .deserialize,
      .compress, .decompress, .clear], isNext (exec i (ready [] (ops 0 1 1 1 0))) = true := by decide +kernel

/-- IO_ERROR by a read and by a write. -/
theorem witness_io_error :
    (after (exec .encode (failing .read 0x1000 { built aab with cfg := ops 0x1000 3 0x8000 1 0 }))).res.errInfo = 0#64 ∧
    (after (exec .encode (failing .write 0x8000 { built aab with cfg := ops 0x1000 3 0x8000 1 0 }))).res.errInfo = 1#64 ∧
    (after (exec .encode (failing .write 0x8000 { built aab with cfg := ops 0x1000 3 0x8000 1 0 }))).code = .ioError := by
  decide +kernel

/-- The clauses of the flags' table that the codes above do not reach. -/
theorem witness_flags :
    (after (exec .count (ready [] (ops 0 0 0 0 0)))).code = .ok ∧
    (after (exec .buildTree (run 1 (ready (memOf 0x1000 [1]) (ops 0x1000 1 0 0 0))))).code = .ok ∧
    (after (exec .deserialize (ready [] (ops 0 16 0 0 0)))).code = .ok ∧
    (after (exec .deserialize (failing .read 0 (ready [] (ops 0 16 0 0 0))))).code = .ioError ∧
    (after (exec .compress (ready [] (ops 0 0 0 0 0)))).code = .emptyInput ∧
    (after (exec .compress (ready [] (ops 0 1 1 19 0)))).code = .ok ∧
    (after (exec .compress (failing .write 1 (ready [] (ops 0 1 1 19 0))))).code = .ioError ∧
    (after (exec .compress (failing .read 0 (ready [] (ops 0 1 1 19 0))))).code = .ioError ∧
    (after (exec .decompress (ready [] (ops 0 16 0 0 0)))).code = .ok ∧
    (after (exec .decompress (ready (memOf 0 nineA) (ops 0 23 64 9 0)))).code = .capacityExceeded ∧
    (after (exec .decompress (ready (memOf 0 nineA) (ops 0 22 64 10 0)))).code = .malformedStream ∧
    (after (exec .decompress (ready [] (ops 0 15 64 10 0)))).code = .truncatedFile := by decide +kernel

/-- IO_ERROR of the two pipelines by stage: COMPRESS by a read and by a write; DECOMPRESS in the header, at the last byte
of the segment, at the first byte of the payload, and by a write. -/
theorem witness_io_error_stages :
    let c := ready [] (ops 0 1 1 19 0)
    let d := ready (memOf 0 nineA) (ops 0 23 64 10 0)
    let bad := fun (i : Instr) (dir : Dir) (a : Nat) (s : State) =>
      let t := after (exec i (failing dir a s))
      (t.code, t.res.errInfo, t.res.errAddr)
    bad .compress .read 0 c = (.ioError, 0#64, 0#64) ∧ bad .compress .write 1 c = (.ioError, 1#64, 1#64) ∧
    bad .decompress .read 15 d = (.ioError, 0#64, 15#64) ∧ bad .decompress .read 20 d = (.ioError, 0#64, 20#64) ∧
    bad .decompress .read 21 d = (.ioError, 0#64, 21#64) ∧ bad .decompress .write 64 d = (.ioError, 1#64, 64#64) ∧
    16 + u64le (d.mem.bytes 8 8) = 21 := by decide +kernel

/-- Each pre-check of R207 at its boundary, the value that passes beside the one that does not. -/
theorem witness_prechecks :
    (after (exec .count (ready [] (ops 0 (2 ^ 56) 0 0 0)))).res.errInfo = 1#64 ∧
    (after (exec .count (ready [] (ops (2 ^ 64 - 1) 2 0 0 0)))).res.errInfo = 2#64 ∧
    (after (exec .count (ready [] (ops (2 ^ 64 - 1) 1 0 0 0)))).code = .ok ∧
    (after (exec .encode (ready [] (ops 0 0 0 (2 ^ 56) 0)))).res.errInfo = 3#64 ∧
    (after (exec .encode (ready [] (ops 0 0 0 (2 ^ 56 - 1) 0)))).res.errInfo = 6#64 ∧
    (after (exec .encode (ready [] (ops 0 0 (2 ^ 64 - 1) 2 0)))).res.errInfo = 4#64 ∧
    (after (exec .encode (ready [] (ops 0 2 1 1 0)))).res.errInfo = 5#64 ∧
    (after (exec .encode (ready [] (ops 0 1 1 1 0)))).res.errInfo = 6#64 ∧
    (after (exec .buildTree State.reset)).res.errInfo = 4#64 ∧
    (after (exec .buildTable State.reset)).res.errInfo = 5#64 ∧
    (after (exec .serialize State.reset)).res.errInfo = 6#64 ∧
    (after (exec .decode State.reset)).res.errInfo = 7#64 ∧
    (after (exec .decode (decoding [] [] 0 0 0))).code = .ok := by decide +kernel

theorem witness_count : ∃ s : State, SrcOk s.operands ∧ 0 < s.operands.srcLen.toNat ∧
    Readable s.platform s.operands.srcAddr.toNat s.operands.srcLen.toNat :=
  ⟨ready (memOf 0x1000 aab) (ops 0x1000 3 0 0 0), by decide, by decide, readable_all rfl _ _⟩

theorem witness_count_io : ∃ (s : State) (k : Nat), SrcOk s.operands ∧ k < s.operands.srcLen.toNat ∧
    Readable s.platform s.operands.srcAddr.toNat k ∧
    s.platform.busOk (s.operands.srcAddr.toNat + k) .read = false :=
  ⟨failing .read 0x1000 (ready (memOf 0x1000 aab) (ops 0x1000 3 0 0 0)), 0, by decide, by decide,
    fun x h1 h2 => by omega, by decide⟩

/-- A count of no symbol and of one, as BUILD_TREE's and BUILD_TABLE's statements need them. -/
theorem witness_counts :
    distinctSyms (run 1 (ready [] (ops 0 0 0 0 0))).tables.freq = 0 ∧
    (run 1 (ready [] (ops 0 0 0 0 0))).flags.freqValid = true ∧
    distinctSyms (run 1 (ready [] (ops 0 1 0 0 0))).tables.freq = 1 ∧
    (run 1 (ready [] (ops 0 1 0 0 0))).flags.freqValid = true := by decide +kernel

theorem witness_queue : ∃ (q : Queue) (e : Nat × Nat),
    q.Pairwise (fun x y => x.1 < y.1 ∨ x.1 = y.1 ∧ x.2 < y.2) ∧ ∀ x ∈ q, x.2 ≠ e.2 :=
  ⟨[(1, 4), (2, 0), (2, 3)], (2, 2), by decide, by decide⟩

/-- The arena of "aab": a node past the leaves, a node below the last, and a child of it. -/
theorem witness_arena : let n := buildNodes (countBytes (bytes aab))
    n[2]? = some (.internal 1 0) ∧ distinctSyms (countBytes (bytes aab)) ≤ 2 ∧ 1 + 1 < n.length ∧ 0 + 1 < n.length := by
  decide +kernel

/-- In the arena of "abc" node 3 joins nodes 0 and 1 while node 2 waits (V-BT2). -/
theorem witness_waiting : ∃ (freq : Table Word) (i l r j : Nat), (buildNodes freq)[i]? = some (Node.internal l r) ∧
    Waiting (buildNodes freq) i j ∧ j ≠ l ∧ j ≠ r := by
  have h : buildNodes (countBytes (bytes abc)) =
      [.leaf 0x61#8, .leaf 0x62#8, .leaf 0x63#8, .internal 0 1, .internal 2 3] := by decide +kernel
  refine ⟨countBytes (bytes abc), 3, 0, 1, 2, by rw [h]; rfl, ?_, by decide, by decide⟩
  rw [h]
  refine ⟨by decide, fun k l r hk hn => ?_⟩
  match k with
  | 0 | 1 | 2 => simp at hn
  | k + 3 => omega

theorem witness_build_table : ∃ (s : State) (b : Byte), s.flags.treeValid = true ∧ s.tables.nodes = [.leaf b] ∧
    s.tables.root = 0 :=
  ⟨run 2 (run 1 (ready [] (ops 0 1 0 0 0))), 0#8, by decide +kernel, by decide +kernel, by decide +kernel⟩

theorem witness_codes_of_a_tree : ∃ (freq : Table Word) (b c : Byte), 2 ≤ distinctSyms freq ∧ b ≠ c ∧
    let codes := buildCodes (buildNodes freq) ((buildNodes freq).length - 1)
    codes.at b ≠ [] ∧ codes.at c ≠ [] :=
  ⟨countBytes (bytes aab), 0x61#8, 0x62#8, by decide +kernel⟩

theorem witness_encode : ∃ s : State, SrcOk s.operands ∧ DstOk s.operands ∧ Apart s.operands ∧
    s.flags.etableValid = true ∧ (∀ b ∈ s.source, s.tables.codes.at b ≠ []) ∧
    ((codedStream s.tables.codes s.source).length + 7) / 8 = s.operands.dstCap.toNat ∧
    Readable s.platform s.operands.srcAddr.toNat s.operands.srcLen.toNat ∧
    Writable s.platform s.operands.dstAddr.toNat (((codedStream s.tables.codes s.source).length + 7) / 8) :=
  ⟨{ built aab with cfg := ops 0x1000 3 0x1003 1 0 }, by decide +kernel, by decide +kernel, by decide +kernel, by decide +kernel, by decide +kernel,
    by decide +kernel, readable_all (by decide +kernel) _ _, writable_all (by decide +kernel) _ _⟩

theorem witness_encode_missing : ∃ (s : State) (k : Nat), SrcOk s.operands ∧ DstOk s.operands ∧ Apart s.operands ∧
    s.flags.etableValid = true ∧ k < s.operands.srcLen.toNat ∧
    (∀ j, j < k → s.tables.codes.at (s.mem.read (s.operands.srcAddr.toNat + j)) ≠ []) ∧
    s.tables.codes.at (s.mem.read (s.operands.srcAddr.toNat + k)) = [] ∧
    Readable s.platform s.operands.srcAddr.toNat (k + 1) :=
  ⟨{ built aab with cfg := ops 0x1002 2 0x8000 1 0 }, 1, by decide +kernel, by decide +kernel, by decide +kernel, by decide +kernel, by decide +kernel,
    by decide +kernel, by decide +kernel, readable_all (by decide +kernel) _ _⟩

theorem witness_encode_capacity : ∃ s : State, SrcOk s.operands ∧ DstOk s.operands ∧ Apart s.operands ∧
    s.flags.etableValid = true ∧ (∀ b ∈ s.source, s.tables.codes.at b ≠ []) ∧
    s.operands.dstCap.toNat < ((codedStream s.tables.codes s.source).length + 7) / 8 ∧
    Readable s.platform s.operands.srcAddr.toNat s.operands.srcLen.toNat :=
  ⟨{ built aab with cfg := ops 0x1000 3 0x1003 0 0 }, by decide +kernel, by decide +kernel, by decide +kernel, by decide +kernel, by decide +kernel,
    by decide +kernel, readable_all (by decide +kernel) _ _⟩

theorem witness_payload_bits : (bytes aab).length ≤ Config.maxLen := by decide

/-- V-D5's payload, its symbol and what follows it. -/
theorem witness_decode : ∃ (s : State) (es : List DtEntry), SrcOk s.operands ∧ DstOk s.operands ∧ Apart s.operands ∧
    s.flags.dtableValid = true ∧ DtSound s.tables.dt ∧ (∀ e ∈ es, e ∈ s.tables.dt) ∧
    s.operands.origLen.toNat = es.length ∧
    es.flatMap DtEntry.code <+: payloadStream s.mem s.operands.srcAddr.toNat s.operands.srcLen.toNat ∧
    es.length = s.operands.dstCap.toNat ∧
    Readable s.platform s.operands.srcAddr.toNat (((es.flatMap DtEntry.code).length + 7) / 8) ∧
    Writable s.platform s.operands.dstAddr.toNat es.length :=
  ⟨decoding dt2 [0x4F, 0xFF] 2 1 1, [⟨0x62#8, [false, true]⟩], by decide, by decide, by decide, rfl, dt2_sound,
    by decide, by decide, by decide +kernel, by decide, readable_all rfl _ _, writable_all rfl _ _⟩

/-- DECODE's two checks: nothing to decode, and one byte more than the destination holds. -/
theorem witness_decode_checks :
    let s := decoding [] [] 0 0 0
    let u := decoding dt2 [0x00] 1 3 4
    SrcOk s.operands ∧ DstOk s.operands ∧ Apart s.operands ∧ s.flags.dtableValid = true ∧ s.operands.origLen = 0#64 ∧
    SrcOk u.operands ∧ DstOk u.operands ∧ Apart u.operands ∧ u.flags.dtableValid = true ∧
    u.operands.dstCap.toNat < u.operands.origLen.toNat := by decide

/-- A table with a gap: no code begins "00", and the longest code has three bits. -/
def dtGap : List DtEntry := [⟨0x61#8, [true]⟩, ⟨0x62#8, [false, true, true]⟩]

theorem dtGap_sound : DtSound dtGap := ⟨by decide, by decide, by decide, by decide⟩

/-- A payload that ends early: "01 00 00 00" under DT2, after whole codes; "111111 00" under the table with the gap, in
bits that begin no code. -/
theorem witness_decode_malformed : ∀ p ∈ [
      (decoding dt2 [0x40] 1 5 5, (⟨0x62#8, [false, true]⟩ : DtEntry) :: List.replicate 3 ⟨0x61#8, [false, false]⟩, []),
      (decoding dtGap [0xFC] 1 7 7, List.replicate 6 (⟨0x61#8, [true]⟩ : DtEntry), [false, false])],
    let s : State := p.1
    let es : List DtEntry := p.2.1
    let tail : Bits := p.2.2
    SrcOk s.operands ∧ DstOk s.operands ∧ Apart s.operands ∧ s.flags.dtableValid = true ∧
    (s.tables.dt = dt2 ∨ s.tables.dt = dtGap) ∧ (∀ e ∈ es, e ∈ s.tables.dt) ∧
    es.length < s.operands.origLen.toNat ∧ s.operands.origLen.toNat ≤ s.operands.dstCap.toNat ∧
    s.platform.busFaults = [] ∧ (∃ e ∈ s.tables.dt, tail.length < e.code.length) ∧
    (∀ e ∈ s.tables.dt, ¬ e.code <+: tail) ∧
    es.flatMap DtEntry.code ++ tail = payloadStream s.mem s.operands.srcAddr.toNat s.operands.srcLen.toNat := by
  decide +kernel

/-- V-D2's payload. -/
theorem witness_decode_no_match : let s := decoding dt2 [0x80] 1 1 1
    let tail : Bits := [true, false]
    SrcOk s.operands ∧ DstOk s.operands ∧ Apart s.operands ∧ s.flags.dtableValid = true ∧
    0 < s.operands.origLen.toNat ∧ s.operands.origLen.toNat ≤ s.operands.dstCap.toNat ∧
    (∃ e ∈ s.tables.dt, e.code.length = tail.length) ∧
    (∀ e ∈ s.tables.dt, e.code.length ≤ tail.length ∧ ¬ e.code <+: tail) ∧
    tail <+: payloadStream s.mem s.operands.srcAddr.toNat s.operands.srcLen.toNat := by decide +kernel

/-- V-D10: an empty table. -/
theorem witness_decode_empty_table : let s := decoding [] [0x00] 1 1 1
    SrcOk s.operands ∧ DstOk s.operands ∧ Apart s.operands ∧ s.flags.dtableValid = true ∧ s.tables.dt = [] ∧
    0 < s.operands.origLen.toNat ∧ s.operands.origLen.toNat ≤ s.operands.dstCap.toNat := by decide

theorem empty_table_sound : DtSound [] := ⟨by decide, by decide, by decide, by decide⟩

/-- SERIALIZE of "aab"'s table with a payload of one byte: the segment has 5 bytes, the container 22. -/
theorem witness_serialize : ∀ cap ∈ [22, 21], let s := { built aab with cfg := ops 0x1000 1 0x2000 cap 3 }
    SrcOk s.operands ∧ DstOk s.operands ∧ Apart s.operands ∧ s.flags.etableValid = true ∧
    (segBytes s.tables.codes).length = 5 ∧ s.platform.busFaults = [] := by decide +kernel

theorem witness_deserialize : ∃ (s : State) (es : List DtEntry) (orig : Word), SrcOk s.operands ∧ DtSound es ∧
    (es = [] → orig = 0#64) ∧ 16 + (entriesBytes es).length ≤ s.operands.srcLen.toNat ∧
    s.mem.bytes s.operands.srcAddr.toNat (16 + (entriesBytes es).length) =
      le64 orig ++ le64 (BitVec.ofNat 64 (entriesBytes es).length) ++ entriesBytes es ∧
    Readable s.platform s.operands.srcAddr.toNat (16 + (entriesBytes es).length) :=
  ⟨ready (memOf 0x4000 nineA) (ops 0x4000 21 0 0 0), dt1, 10#64, by decide, dt1_sound, by decide, by decide,
    by decide +kernel, readable_all rfl _ _⟩

theorem witness_deserialize_nothing : ∃ (s : State) (orig : Word), SrcOk s.operands ∧ orig = 0#64 ∧
    16 ≤ s.operands.srcLen.toNat ∧
    s.mem.bytes s.operands.srcAddr.toNat 16 = le64 orig ++ le64 0#64 ∧ Readable s.platform s.operands.srcAddr.toNat 16 :=
  ⟨ready [] (ops 0x4000 16 0 0 0), 0#64, by decide, rfl, by decide, by decide +kernel, readable_all rfl _ _⟩

/-- The header checks at their ends: 15 bytes; a segment one byte longer than what follows; a segment of length 0 with
original length 0 and 1. -/
theorem witness_header_checks :
    let seg := fun s : State => u64le (s.mem.bytes (s.operands.srcAddr.toNat + 8) 8)
    let orig := fun s : State => u64le (s.mem.bytes s.operands.srcAddr.toNat 8)
    let long := ready (memOf 0x4000 nineA) (ops 0x4000 20 0 0 0)
    let none' := ready [] (ops 0x4000 16 0 0 0)
    let one := ready (memOf 0x4000 (small 1)) (ops 0x4000 16 0 0 0)
    SrcOk (ops 0x4000 15 0 0 0) ∧ SrcOk long.operands ∧ long.operands.srcLen.toNat - 16 < seg long ∧
    SrcOk none'.operands ∧ seg none' = 0 ∧ orig none' = 0 ∧ seg one = 0 ∧ 0 < orig one := by decide +kernel

/-- A container of the entry (61, "0"), its separator and then `tail`. -/
def bad (tail : List Nat) : State :=
  ready (memOf 0x4000 (small 1 ++ small (3 + tail.length) ++ [0x61, 0x30, 0x00] ++ tail))
    (ops 0x4000 (16 + (3 + tail.length)) 0 0 0)

/-- The common hypotheses of the malformed tables, with an entry before the bad one; and none before it. -/
theorem witness_malformed_tables : ∀ tail ∈ [[0x62, 0x31, 0x32], [0x62], [0x62, 0x00, 0x30], [0x61, 0x31],
      [0x61, 0x31, 0x00], [0x62, 0x30], [0x62, 0x30, 0x31, 0x00], []],
    let s := bad tail
    let good := [(⟨0x61#8, [false]⟩ : DtEntry)].flatMap fun e => segEntry e.sym e.code ++ [0x00#8]
    let n := good.length + (bytes tail).length
    SrcOk s.operands ∧ 16 + n ≤ s.operands.srcLen.toNat ∧
    s.mem.bytes s.operands.srcAddr.toNat (16 + n) =
      le64 1#64 ++ le64 (BitVec.ofNat 64 n) ++ good ++ bytes tail ∧ s.platform.busFaults = [] := by decide +kernel

theorem witness_malformed_entry : DtSound [(⟨0x61#8, [false]⟩ : DtEntry)] :=
  ⟨by decide, by decide, by decide, by decide⟩

/-- What the clauses ask of the tails: reason 1, 2, 4 and 5 (twice), in that order. -/
theorem witness_malformed_tails :
    bytes [0x62, 0x31, 0x32] = segEntry 0x62#8 [true] ++ [0x32#8] ∧
    bytes [0x62, 0x00, 0x30] = 0x62#8 :: 0x00#8 :: [0x30#8] ∧
    bytes [0x61, 0x31, 0x00] = segEntry 0x61#8 [true] ++ [0x00#8] ∧
    bytes [0x62, 0x30] = segEntry 0x62#8 [false] ∧ [false] <+: [false] ∧
    bytes [0x62, 0x30, 0x31, 0x00] = segEntry 0x62#8 [false, true] ++ [0x00#8] ∧ [false] <+: [false, true] := by decide

/-- A container of segment length `n` that goes on with `good`, then `tail`. -/
def container (n : Nat) (good tail : List Byte) : List Byte := le64 1#64 ++ le64 (BitVec.ofNat 64 n) ++ good ++ tail

/-- Memory that holds it at 0x4000. -/
theorem container_in_memory {n : Nat} {good tail : List Byte} (hl : (container n good tail).length = 16 + n)
    (hn : 0x4000 + (16 + n) ≤ Config.addrSpace) :
    ∃ m : Memory, m.bytes 0x4000 (16 + n) = container n good tail := by
  have h := Memory.bytes_writeAll Memory.wf_nil (a := 0x4000) (vs := container n good tail) (by rw [hl]; exact hn)
  rw [hl] at h
  exact ⟨_, h⟩

/-- A code of `n` bits, all 0. -/
def zeros (n : Nat) : Bits := List.replicate n false

/-- Codes at the bound of 255 bits: reason 3 at a 256th character (V-DS8), reason 1 right after the 255th (no entry
before the bad one), and, after the entry (61, "0"), reason 4 and reason 5 for an entry of 255 bits. -/
theorem witness_malformed_long : ∀ p ∈ [(257, [], segEntry 0x61#8 (zeros 256)),
      (257, [], segEntry 0x61#8 (zeros 255) ++ [0x32#8]),
      (259, segEntry 0x61#8 [false] ++ [0x00#8], segEntry 0x61#8 (true :: zeros 254)),
      (259, segEntry 0x61#8 [false] ++ [0x00#8], segEntry 0x62#8 (zeros 255))],
    ∃ s : State, SrcOk s.operands ∧ 16 + p.1 ≤ s.operands.srcLen.toNat ∧ p.2.1.length + p.2.2.length = p.1 ∧
      s.mem.bytes s.operands.srcAddr.toNat (16 + p.1) = container p.1 p.2.1 p.2.2 := by
  intro p hp
  have hl : p.2.1.length + p.2.2.length = p.1 ∧ (container p.1 p.2.1 p.2.2).length = 16 + p.1 ∧ p.1 ≤ 259 := by
    revert p; decide +kernel
  have ho : SrcOk (ops 0x4000 275 0 0 0) ∧ (ops 0x4000 275 0 0 0).srcLen.toNat = 275 := by decide
  obtain ⟨m, hm⟩ := container_in_memory hl.2.1 (by have : Config.addrSpace = 2 ^ 64 := rfl; omega)
  have hlen : 16 + p.1 ≤ (ops 0x4000 275 0 0 0).srcLen.toNat := by rw [ho.2]; omega
  exact ⟨ready m (ops 0x4000 275 0 0 0), ho.1, hlen, hl.1, hm⟩

theorem witness_malformed_long_clash : (zeros 256).length = 256 ∧ (zeros 255).length = 255 ∧ [false] <+: zeros 255 := by
  decide +kernel

theorem witness_segment_parses : ∃ (freq : Table Word) (p : Platform) (m : Memory) (base : Nat), 1 ≤ distinctSyms freq ∧
    let codes := buildCodes (buildNodes freq) ((buildNodes freq).length - 1)
    m.bytes base (segBytes codes).length = segBytes codes ∧ Readable p base (segBytes codes).length :=
  ⟨countBytes (bytes aab), ⟨0#64, []⟩, memOf 0 [0x61, 0x31, 0x00, 0x62, 0x30], 0, by decide +kernel, by decide +kernel,
    fun _ _ _ => busOk_of_no_faults rfl _ _⟩

/-- COMPRESS of "aab": the container has 22 bytes. -/
theorem witness_compress : ∀ cap ∈ [22, 21], let s := ready (memOf 0x1000 aab) (ops 0x1000 3 0x1003 cap 0)
    let codes := buildCodes (buildNodes (countBytes s.source)) ((buildNodes (countBytes s.source)).length - 1)
    SrcOk s.operands ∧ DstOk s.operands ∧ Apart s.operands ∧ 1 ≤ s.operands.srcLen.toNat ∧
    16 + (segBytes codes).length + ((codedStream codes s.source).length + 7) / 8 = 22 ∧
    s.platform.busFaults = [] := by decide +kernel

theorem witness_compress_nothing : let s := ready [] (ops (2 ^ 64 - 1) 0 0 0 0)
    SrcOk s.operands ∧ DstOk s.operands ∧ s.operands.srcLen = 0#64 := by decide

theorem witness_decompress : ∃ (s : State) (dt es : List DtEntry) (orig : Word), SrcOk s.operands ∧ DstOk s.operands ∧
    Apart s.operands ∧ DtSound dt ∧ (dt = [] → orig = 0#64) ∧ (∀ e ∈ es, e ∈ dt) ∧ orig.toNat = es.length ∧
    16 + (entriesBytes dt).length ≤ s.operands.srcLen.toNat ∧
    s.mem.bytes s.operands.srcAddr.toNat (16 + (entriesBytes dt).length) =
      le64 orig ++ le64 (BitVec.ofNat 64 (entriesBytes dt).length) ++ entriesBytes dt ∧
    es.flatMap DtEntry.code <+: payloadStream s.mem (s.operands.srcAddr.toNat + 16 + (entriesBytes dt).length)
      (s.operands.srcLen.toNat - 16 - (entriesBytes dt).length) ∧
    es.length = s.operands.dstCap.toNat ∧
    Readable s.platform s.operands.srcAddr.toNat s.operands.srcLen.toNat ∧
    Writable s.platform s.operands.dstAddr.toNat es.length :=
  ⟨ready (memOf 0x4000 nineA) (ops 0x4000 23 0x6000 10 0), dt1,
    List.replicate 9 ⟨0x61#8, [true]⟩ ++ [⟨0x62#8, [false]⟩], 10#64, by decide, by decide, by decide, dt1_sound,
    by decide, by decide, by decide, by decide, by decide +kernel, by decide +kernel, by decide, readable_all rfl _ _,
    writable_all rfl _ _⟩

/-! #### Whole-machine statements -/

/-- "aab" at 0x1000, the container to 0x2000. -/
def toCompress : State := ready (memOf 0x1000 aab) (ops 0x1000 3 0x2000 22 0)

/-- The stages of the staged equivalence, each from the one before. -/
def stage1 : State := after (exec .count toCompress)
def stage2 : State := after (exec .buildTree stage1)
def stage3 : State := after (exec .buildTable stage2)
def stage4 : State := after (exec .encode { stage3 with cfg := { stage3.cfg with dstAddr := 0x3000#64, dstCap := 8#64 } })
def stage5 : State := after (exec .serialize { stage4 with cfg := { stage4.cfg with
  srcAddr := 0x3000#64, srcLen := stage4.res.resultLen, dstAddr := 0x2000#64, dstCap := 22#64 } })

theorem witness_pipelines_compress : toCompress.mem.wf ∧ toCompress.engine = none ∧
    isNext (exec .compress toCompress) = true ∧ (after (exec .compress toCompress)).code = .ok ∧
    stage1.code = .ok ∧ stage2.code = .ok ∧ stage3.code = .ok ∧ stage4.code = .ok ∧ stage5.code = .ok ∧
    isNext (exec .serialize { stage4 with cfg := { stage4.cfg with
      srcAddr := 0x3000#64, srcLen := stage4.res.resultLen, dstAddr := 0x2000#64, dstCap := 22#64 } }) = true := by
  decide +kernel

theorem witness_pipelines_decompress : ∃ (s : State) (t : State), s.engine = none ∧ exec .decompress s = .next t ∧ t.code = .ok :=
  ⟨ready (memOf 0x4000 nineA) (ops 0x4000 23 0x6000 16 0), _, rfl, next_after (by decide +kernel), by decide +kernel⟩

/-- What "aab" is compressed to, at 0x2000. -/
def compressed : State := after (exec .compress toCompress)

/-- A state whose source range is the first `n` bytes of that container. -/
def unpacking (n : Nat) : State := { compressed with cfg := ops 0x2000 n 0x4000 3 0 }

/-- The hypotheses of the round trip (22 bytes, all) and of truncation (0, 15, 16, 20, 21 bytes). -/
theorem witness_round_trip : ∀ n ∈ [22, 0, 15, 16, 20, 21], toCompress.mem.wf ∧
    isNext (exec .compress toCompress) = true ∧ compressed.code = .ok ∧ compressed.res.resultLen = 22#64 ∧
    (unpacking n).mem.wf ∧ SrcOk (unpacking n).operands ∧ DstOk (unpacking n).operands ∧
    Apart (unpacking n).operands ∧ (unpacking n).operands.srcLen.toNat = n ∧
    (unpacking n).source = compressed.mem.bytes toCompress.operands.dstAddr.toNat n ∧
    toCompress.operands.srcLen.toNat ≤ (unpacking n).operands.dstCap.toNat ∧
    (unpacking n).platform.busFaults = [] := by decide +kernel

/-- A command in flight, host operations still to come, and no reset among them. -/
theorem witness_completes : ∃ (s : State) (c : Latched), s.engine = some c ∧ Input.reset ∉ s.inputs ∧ s.inputs ≠ [] :=
  ⟨next busyCompress [.busWrite 0x008#64 8 1#64, .memRead 0x2000#64], _, rfl, by decide, by decide⟩

theorem witness_latch_sound : busyCompress.LatchSound ∧ isNext (step busyCompress) = true := by
  refine ⟨?_, by decide +kernel⟩
  intro c h
  cases h
  decide

/-- The tables of "aab", all valid. -/
def soundTables : State :=
  { State.reset with
    tables := { Tables.blank with
      freq := countBytes (bytes aab)
      nodes := buildNodes (countBytes (bytes aab))
      root := 2
      codes := buildCodes (buildNodes (countBytes (bytes aab))) 2 }
    flags := ⟨true, true, true, false⟩ }

theorem witness_tables_sound : soundTables.TablesSound ∧ isNext (step soundTables) = true := by
  refine ⟨⟨fun _ => rfl, fun _ => rfl, by decide +kernel, fun _ => ⟨rfl, by decide +kernel⟩, fun _ => rfl⟩, rfl⟩

theorem witness_dt_sound : DtSound (deser nineA).tables.dt ∧ isNext (step (deser nineA)) = true ∧
    (deser nineA).code = .ok := by
  have h : (deser nineA).tables.dt = dt1 := by decide +kernel
  exact ⟨h ▸ dt1_sound, by decide +kernel, by decide +kernel⟩

end Sys2Proof.Tests
end

section
/-! Little-endian integers (00_scope.md R10, 20_memory.md R63). -/

namespace Sys2Proof.Machine

/-- The bytes of a string are the base-256 digits of its integer, the least significant first. -/
theorem u64le_eq_ofDigits (bs : List Byte) : u64le bs = Nat.ofDigits 256 (bs.map BitVec.toNat) := by
  induction bs with
  | nil => rfl
  | cons b bs ih => rw [u64le, ih, List.map_cons, Nat.ofDigits_cons]

theorem u64le_digit_lt (bs : List Byte) : ∀ d ∈ bs.map BitVec.toNat, d < 256 := by
  intro d hd
  obtain ⟨b, -, rfl⟩ := List.mem_map.mp hd
  exact b.isLt

theorem u64le_lt (bs : List Byte) : u64le bs < 256 ^ bs.length := by
  rw [u64le_eq_ofDigits, ← List.length_map BitVec.toNat]
  exact Nat.ofDigits_lt_base_pow_length (by decide) (u64le_digit_lt bs)

theorem u64le_append (bs cs : List Byte) : u64le (bs ++ cs) = u64le bs + 256 ^ bs.length * u64le cs := by
  simp only [u64le_eq_ofDigits, List.map_append, Nat.ofDigits_append, List.length_map]

/-- Byte strings of one length are told apart by their integers. -/
theorem u64le_injective_of_length {bs cs : List Byte} (hl : bs.length = cs.length) (h : u64le bs = u64le cs) :
    bs = cs := by
  rw [u64le_eq_ofDigits, u64le_eq_ofDigits] at h
  have hd : bs.map BitVec.toNat = cs.map BitVec.toNat :=
    Nat.ofDigits_inj_of_len_eq (by decide) (by simpa using hl) (u64le_digit_lt bs) (u64le_digit_lt cs) h
  exact List.map_injective_iff.mpr (fun _ _ => BitVec.eq_of_toNat_eq) hd

@[simp] theorem length_le64 (v : Word) : (le64 v).length = 8 := by simp [le64]

theorem le64_getD (v : Word) {i : Nat} (h : i < 8) : (le64 v).getD i 0#8 = v.extractLsb' (8 * i) 8 := by
  simp [le64, h]

/-- The lowest `n` bytes of a word hold its value modulo 256^n. -/
theorem u64le_low_bytes (v : Word) (n : Nat) :
    u64le ((List.range n).map fun i => v.extractLsb' (8 * i) 8) = v.toNat % 256 ^ n := by
  induction n with
  | zero => simp [u64le, Nat.mod_one]
  | succ n ih =>
    have hbyte : u64le [v.extractLsb' (8 * n) 8] = v.toNat / 256 ^ n % 256 := by
      simp [u64le, Nat.shiftRight_eq_div_pow, pow_mul]
    rw [List.range_succ, List.map_append, u64le_append, ih, List.map_singleton, hbyte, List.length_map,
      List.length_range, Nat.mod_pow_succ]

@[simp] theorem u64le_le64 (v : Word) : u64le (le64 v) = v.toNat := by
  have h := u64le_low_bytes v 8
  rwa [Nat.mod_eq_of_lt (by simpa using v.isLt)] at h

theorem le64_u64le {bs : List Byte} (h : bs.length = 8) : le64 (BitVec.ofNat 64 (u64le bs)) = bs := by
  have hlt : u64le bs < 2 ^ 64 := by simpa [h] using u64le_lt bs
  refine u64le_injective_of_length (by simp [h]) ?_
  rw [u64le_le64, BitVec.toNat_ofNat, Nat.mod_eq_of_lt hlt]

/-- Settles O37: the bytes are the base-256 digits of the integer, so eight of them and a word determine each other. -/
theorem headerIntegersAreLittleEndian : Obligations.HeaderIntegersAreLittleEndian := by
  refine ⟨fun v => ⟨length_le64 v, fun i hi => le64_getD v hi, u64le_le64 v⟩, fun bs hbs => ⟨?_, le64_u64le hbs⟩⟩
  simpa [hbs] using u64le_lt bs

end Sys2Proof.Machine
end

section
/-! Every command completes (00_scope.md R14, 10_state.md R52): the engine's turn ends the command in flight, a host
operation leaves it in flight or stops the run, and each step uses up an input. -/

namespace Sys2Proof.Machine

/-! ### The engine's turn completes the command in flight -/

/-- `t` is `s` completed (R52) after the writes of a command's stages: those reach the configuration and staged
registers, the flags, the tables, memory and the count of draws only. -/
def State.CompletesTo (s t : State) : Prop :=
  ∃ (u : State) (code : Code) (addr info len : Nat),
    t = u.complete code addr info len ∧
    u = { s with cfg := u.cfg, res := u.res, flags := u.flags, tables := u.tables, mem := u.mem, draws := u.draws }

section
variable {s t : State}

theorem State.CompletesTo.engine (h : s.CompletesTo t) : t.engine = none := by
  obtain ⟨u, _, _, _, _, rfl, -⟩ := h
  rfl

theorem State.CompletesTo.done (h : s.CompletesTo t) : t.done = true := by
  obtain ⟨u, _, _, _, _, rfl, -⟩ := h
  rfl

theorem State.CompletesTo.lastOp (h : s.CompletesTo t) : t.lastOp = s.lastOp := by
  obtain ⟨u, _, _, _, _, rfl, hu⟩ := h
  exact (congrArg State.lastOp hu :)

theorem completesTo_raise (s : State) (e : Raise) : s.CompletesTo (s.raise e) := ⟨s, _, _, _, _, rfl, rfl⟩

/-- A command ends by a pre-check error, or as its rule does. -/
theorem checked_completes {i : Instr} {rule : Operands → State} (h : s.CompletesTo (rule s.operands)) :
    ∃ t, checked i s rule = .next t ∧ s.CompletesTo t := by
  cases hp : precheck i s.flags s.operands with
  | some e => exact ⟨_, checked_error hp, completesTo_raise s e⟩
  | none => exact ⟨_, checked_ok hp, h⟩

theorem exec_completes (i : Instr) (s : State) : ∃ t, exec i s = .next t ∧ s.CompletesTo t := by
  cases i <;>
    simp only [exec, execNop, execCount, execBuildTree, execBuildTable, execEncode, execDecode, execSerialize,
      execDeserialize, execCompress, execDecompress, execClear] <;>
    refine checked_completes ?_
  case nop => exact ⟨s, _, _, _, _, rfl, rfl⟩
  case clear => exact ⟨s.clearTables, _, _, _, _, rfl, rfl⟩
  case count =>
    split
    · exact ⟨s.storeCounts _, _, _, _, _, rfl, rfl⟩
    · exact ⟨s.dropCounts, _, _, _, _, rfl, rfl⟩
  case buildTree =>
    split
    · exact ⟨s.dropTree, _, _, _, _, rfl, rfl⟩
    · exact ⟨s.storeTree, _, _, _, _, rfl, rfl⟩
  case buildTable => exact ⟨s.storeCodes, _, _, _, _, rfl, rfl⟩
  case encode =>
    split
    · exact ⟨s.storeEncoded _ _ _, _, _, _, _, rfl, rfl⟩
    · exact ⟨s.openDst _, _, _, _, _, rfl, rfl⟩
  case decode =>
    split
    · exact ⟨s.storeMem _, _, _, _, _, rfl, rfl⟩
    · exact ⟨s.openDst _, _, _, _, _, rfl, rfl⟩
  case serialize =>
    split
    · exact ⟨s.storeSerialized _, _, _, _, _, rfl, rfl⟩
    · exact ⟨s.openDst _, _, _, _, _, rfl, rfl⟩
  case deserialize =>
    split
    · exact ⟨(s.storeDt _).storeParsed _ _, _, _, _, _, rfl, rfl⟩
    · exact ⟨s.dropDt, _, _, _, _, rfl, rfl⟩
  case compress =>
    split
    · exact ⟨s.dropCounts.openDst _, _, _, _, _, rfl, rfl⟩
    · split
      · exact ⟨(s.storeCounts _).dropTree, _, _, _, _, rfl, rfl⟩
      · obtain ⟨m, -, h⟩ | ⟨e, -, h⟩ := compressTail_cases ((s.storeCounts _).storeTree.storeCodes) s.operands
        · exact ⟨((s.storeCounts _).storeTree.storeCodes).storeCompressed _ _, _, _, _, _, h, rfl⟩
        · exact ⟨((s.storeCounts _).storeTree.storeCodes).openDst _, _, _, _, _, h, rfl⟩
  case decompress =>
    split
    · exact ⟨s.dropDt.openDst _, _, _, _, _, rfl, rfl⟩
    · split
      · exact ⟨(s.storeDt _).openDst _, _, _, _, _, rfl, rfl⟩
      · exact ⟨((s.storeDt _).storeMem _).storeParsed _ _, _, _, _, _, rfl, rfl⟩

theorem engineTurn_idle (h : s.engine = none) : engineTurn s = .next s := by simp [engineTurn, h]

theorem engineTurn_completes {c : Latched} (h : s.engine = some c) :
    ∃ t, engineTurn s = .next t ∧ s.CompletesTo t := by
  cases hd : decode c.word with
  | ok i =>
    obtain ⟨t, ht, hc⟩ := exec_completes i s
    exact ⟨t, by simp [engineTurn, h, hd, ht], hc⟩
  | error r => exact ⟨s.raise ⟨.badCommand, 0, c.word.toNat⟩, by simp [engineTurn, h, hd], completesTo_raise s _⟩

/-! ### Everyone else leaves the command in flight -/

/-- A register write while a command is in flight does not reach it. -/
theorem writeReg_keeps_command {c : Latched} (h : s.engine = some c) (r : Reg) (v : Word) :
    (s.writeReg r v).engine = some c ∧ (s.writeReg r v).lastOp = s.lastOp ∧ (s.writeReg r v).inputs = s.inputs := by
  obtain ⟨-, hn, -⟩ | hw | hw | ⟨hn, -⟩ | ⟨-, hw⟩ | hw := writeReg_cases s r v
  · simp [h] at hn
  · simp [hw, h]
  · simp [hw, h]
  · simp [h] at hn
  · simp [hw, h]
  · simp [hw, h]

/-- An input that is neither a reset nor the engine's turn leaves the command in flight where it is. -/
theorem act_keeps_command {c : Latched} {i : Input} (h : s.engine = some c) (he : i ≠ .engine) (hr : i ≠ .reset)
    (ht : act s i = .next t) : t.engine = some c ∧ t.lastOp = s.lastOp ∧ t.inputs = s.inputs := by
  obtain ⟨rfl, -⟩ | ⟨a, n, v, -, rfl | ⟨r, rfl⟩⟩ | ⟨a, n, -, d, u, k, rfl⟩ | ⟨a, v, -, -, rfl⟩ | ⟨a, -, d, k, rfl⟩ |
    ⟨rfl, -⟩ | ⟨fs, -, rfl⟩ := act_cases ht
  · exact absurd rfl he
  · exact ⟨h, rfl, rfl⟩
  · exact writeReg_keeps_command h r v
  · exact ⟨h, rfl, rfl⟩
  · exact ⟨h, rfl, rfl⟩
  · exact ⟨h, rfl, rfl⟩
  · exact absurd rfl hr
  · exact ⟨h, rfl, rfl⟩

theorem engineTurn_not_refused (s : State) (r : Refusal) : engineTurn s ≠ .refused r := by
  cases h : s.engine with
  | none => simp [engineTurn_idle h]
  | some c =>
    obtain ⟨t, ht, -⟩ := engineTurn_completes h
    simp [ht]

/-- The only refusal is that of a register access the spec gives no meaning (R65). -/
theorem act_refused {i : Input} {r : Refusal} (h : act s i = .refused r) : r = .refusedAccess := by
  cases i with
  | engine => exact absurd h (engineTurn_not_refused s r)
  | busWrite a n v =>
    simp only [act, hostWrite] at h
    split at h
    · cases h
    · split at h <;> cases h
      rfl
  | busRead a n =>
    simp only [act, hostRead] at h
    split at h
    · cases h
    · split at h <;> cases h
      rfl
  | memWrite a v =>
    simp only [act, hostStore] at h
    split at h <;> cases h
  | memRead a =>
    simp only [act, hostLoad] at h
    split at h <;> cases h
  | reset => cases h
  | busMap fs => cases h

/-! ### One step while a command is in flight -/

/-- How a command in flight comes to its end: it completes, or the host stops the run (R65, R72). -/
def EndsCommand (op : Byte) (r : Result) : Prop :=
  (∃ t : State, r = .next t ∧ t.engine = none ∧ t.done = true ∧ t.lastOp = op) ∨
    r = .fault .bufferRace ∨ r = .refused .refusedAccess

theorem endsCommand_engineTurn {c : Latched} (h : s.engine = some c) : EndsCommand s.lastOp (engineTurn s) := by
  obtain ⟨t, ht, hc⟩ := engineTurn_completes h
  exact .inl ⟨t, ht, hc.engine, hc.done, hc.lastOp⟩

/-- A step that is no reset ends the command in flight, or leaves it in flight and uses up an input. -/
theorem step_ends_or_keeps_command {c : Latched} (h : s.engine = some c) (hr : Input.reset ∉ s.inputs) :
    EndsCommand s.lastOp (step s) ∨
    ∃ t i, step s = .next t ∧ t.engine = some c ∧ t.lastOp = s.lastOp ∧ s.inputs = i :: t.inputs := by
  obtain ⟨-, hs⟩ | ⟨i, rest, hi, hs⟩ := step_cases (s := s) rfl
  · exact .inl (hs ▸ endsCommand_engineTurn h)
  · rw [hi] at hr
    by_cases he : i = .engine
    · subst he
      exact .inl (hs ▸ endsCommand_engineTurn (s := { s with inputs := rest }) h)
    · cases ha : act { s with inputs := rest } i with
      | next t =>
        obtain ⟨hc, hop, hrest⟩ :=
          act_keeps_command (s := { s with inputs := rest }) h he (by rintro rfl; simp at hr) ha
        exact .inr ⟨t, i, hs ▸ ha, hc, hop, by rw [hi, hrest]⟩
      | fault f => exact .inl (.inr (.inl (hs ▸ ha)))
      | refused r => exact .inl (.inr (.inr (by rw [← hs, ha, act_refused ha])))

/-! ### The run -/

theorem run_succ_of_next {M : Host.Core} {s t : M.State} (h : M.step s = .next t) (k : Nat) :
    M.run (k + 1) s = M.run k t := by
  rw [Host.Core.run, h]

theorem run_one {M : Host.Core} (s : M.State) : M.run 1 s = M.step s := by
  rw [Host.Core.run]
  cases M.step s <;> rfl

/-- The command `c` stays in flight for fewer than `k` steps from `s`, and step `k` is its end. -/
def State.EndsAt (s : State) (c : Latched) (k : Nat) : Prop :=
  (∀ j < k, ∃ u : State, Sys2Proof.core.run j s = .next u ∧ u.engine = some c) ∧
    EndsCommand s.lastOp (Sys2Proof.core.run k s)

theorem endsAt_one {c : Latched} (h : s.engine = some c) (he : EndsCommand s.lastOp (step s)) : s.EndsAt c 1 := by
  refine ⟨fun j hj => ?_, (run_one (M := Sys2Proof.core) s).symm ▸ he⟩
  obtain rfl : j = 0 := by omega
  exact ⟨s, rfl, h⟩

theorem endsAt_succ {c : Latched} {k : Nat} (h : s.engine = some c) (hs : step s = .next t)
    (hop : t.lastOp = s.lastOp) (hk : t.EndsAt c k) : s.EndsAt c (k + 1) := by
  obtain ⟨hfly, hend⟩ := hk
  refine ⟨fun j hj => ?_, by rwa [run_succ_of_next (M := Sys2Proof.core) hs, ← hop]⟩
  cases j with
  | zero => exact ⟨s, rfl, h⟩
  | succ j => rw [run_succ_of_next (M := Sys2Proof.core) hs]; exact hfly j (by omega)

/-- Without a reset to come, the command in flight ends: each step until then uses up an input. -/
theorem exists_endsAt {c : Latched} (h : s.engine = some c) (hr : Input.reset ∉ s.inputs) : ∃ k, s.EndsAt c k := by
  induction hl : s.inputs generalizing s with
  | nil =>
    obtain he | ⟨t, i, -, -, -, hi⟩ := step_ends_or_keeps_command h hr
    · exact ⟨1, endsAt_one h he⟩
    · simp [hl] at hi
  | cons i rest ih =>
    obtain he | ⟨t, i', hs, hc, hop, hi⟩ := step_ends_or_keeps_command h hr
    · exact ⟨1, endsAt_one h he⟩
    · obtain ⟨rfl, rfl⟩ : i = i' ∧ rest = t.inputs := by simpa [hl] using hi
      obtain ⟨k, hk⟩ := ih hc (fun hm => hr (hl ▸ List.mem_cons_of_mem _ hm)) rfl
      exact ⟨k + 1, endsAt_succ h hs hop hk⟩

end

/-- Settles O60, by induction on the inputs to come: with none left the engine has its turn. -/
theorem everyIssuedCommandCompletes : Obligations.EveryIssuedCommandCompletes :=
  fun _ _ h hr => exists_endsAt h hr

end Sys2Proof.Machine
end

section
/-! The register file over the host bus (10_state.md R23-R43): the register an offset names, what a 64-bit access to it
does in one step, and the bits of STATUS and CTRL. -/

namespace Sys2Proof.Machine

variable {s : State} {r : Reg} {v : Word} {rest : List Input}

/-! ### Offsets and registers -/

theorem Reg.offset_lt (r : Reg) : r.offset < Config.regSpace := by
  cases r with
  | codeWin sym w => simp only [Reg.offset, Config.regSpace]; omega
  | freqWin sym => simp only [Reg.offset, Config.regSpace]; omega
  | clenWin sym => simp only [Reg.offset, Config.regSpace]; omega
  | _ => decide

theorem Reg.offset_mod_eight (r : Reg) : r.offset % 8 = 0 := by
  cases r with
  | codeWin sym w => simp only [Reg.offset]; omega
  | freqWin sym => simp only [Reg.offset]; omega
  | clenWin sym => simp only [Reg.offset]; omega
  | _ => rfl

/-- The map of R23 names every register by its offset. -/
@[simp] theorem Reg.ofOffset_offset (r : Reg) : Reg.ofOffset r.offset = r := by
  cases r with
  | freqWin sym =>
    rw [Reg.offset, Reg.ofOffset, if_neg (by omega), if_neg (by omega), if_pos (by omega)]
    simp
  | clenWin sym =>
    rw [Reg.offset, Reg.ofOffset, if_neg (by omega), if_neg (by omega), if_neg (by omega), if_pos (by omega)]
    simp
  | codeWin sym w =>
    rw [Reg.offset, Reg.ofOffset, if_neg (by omega), if_neg (by omega), if_neg (by omega), if_neg (by omega),
      if_neg (by omega)]
    have hq : (0x2000 + 32 * sym.toNat + 8 * w.toNat - 0x2000) / 32 = sym.toNat := by omega
    have hr : (0x2000 + 32 * sym.toNat + 8 * w.toNat - 0x2000) / 8 = 4 * sym.toNat + w.toNat := by omega
    have hlow : BitVec.ofNat 2 (4 * sym.toNat + w.toNat) = w :=
      BitVec.eq_of_toNat_eq (by rw [BitVec.toNat_ofNat]; omega)
    rw [hq, hr, hlow, BitVec.ofNat_toNat, BitVec.setWidth_eq]
  | _ => rfl

/-- The offsets of R43 name no register. -/
theorem Reg.ofOffset_reserved {off : Nat} (h : 0x0A0 ≤ off ∧ off ≤ 0x7F8 ∨ 0x1800 ≤ off ∧ off ≤ 0x1FF8) :
    Reg.ofOffset off = .reserved := by
  unfold Reg.ofOffset
  rcases h with ⟨h1, h2⟩ | ⟨h1, h2⟩
  · rw [if_neg (by omega), if_pos (by omega)]
  · rw [if_neg (by omega), if_neg (by omega), if_neg (by omega), if_neg (by omega), if_pos (by omega)]

/-- An aligned offset is that of the register it names, but for the reserved ones. -/
theorem Reg.offset_ofOffset {off : Nat} (hlt : off < Config.regSpace) (h8 : off % 8 = 0)
    (hr : Reg.ofOffset off ≠ .reserved) : (Reg.ofOffset off).offset = off := by
  obtain ⟨k, rfl⟩ : ∃ k, off = 8 * k := ⟨off / 8, by omega⟩
  by_cases hlow : k < 20
  · clear hlt h8 hr
    revert k
    decide
  · simp only [Config.regSpace] at hlt
    have hrange := mt Reg.ofOffset_reserved hr
    unfold Reg.ofOffset
    rw [if_neg (by omega), if_neg (by omega)]
    split
    · simp only [Reg.offset, BitVec.toNat_ofNat]; omega
    · split
      · simp only [Reg.offset, BitVec.toNat_ofNat]; omega
      · rw [if_neg (by omega)]
        simp only [Reg.offset, BitVec.toNat_ofNat]; omega

/-- The five configuration registers (R29-R33). -/
def cfgRegs : List Reg := [.srcAddr, .srcLen, .dstAddr, .dstCap, .origLen]

/-- The registers a host write can reach: the offsets of R23 they stand at. -/
theorem writable_offset (h : r ∈ [Reg.cmd, .status, .ctrl] ++ cfgRegs) :
    r.offset = 0x008 ∨ r.offset = 0x010 ∨ r.offset = 0x018 ∨ 0x020 ≤ r.offset ∧ r.offset ≤ 0x040 := by
  revert r
  decide

/-- A write to any register but CMD, STATUS, CTRL and the configuration registers is ignored (R43). -/
theorem writeReg_ignored (h : r ∉ [Reg.cmd, .status, .ctrl] ++ cfgRegs) : s.writeReg r v = s := by
  cases r with
  | cmd | status | ctrl | srcAddr | srcLen | dstAddr | dstCap | origLen => simp [cfgRegs] at h
  | _ => rfl

/-- While BUSY a write to CMD or a configuration register is dropped (R51). -/
theorem writeReg_dropped (hb : s.busy = true) (h : r ∈ Reg.cmd :: cfgRegs) : s.writeReg r v = s.dropWrite := by
  simp only [cfgRegs, List.mem_cons, List.not_mem_nil, or_false] at h
  rcases h with rfl | rfl | rfl | rfl | rfl | rfl <;> simp [State.writeReg, State.writeCfg, hb]

/-- What the configuration registers hold, by register. -/
def Operands.reg (o : Operands) : Reg → Word
  | .srcAddr => o.srcAddr
  | .srcLen  => o.srcLen
  | .dstAddr => o.dstAddr
  | .dstCap  => o.dstCap
  | .origLen => o.origLen
  | _        => 0#64

theorem readReg_cfg (h : r ∈ cfgRegs) : s.readReg r = s.cfg.reg r := by
  simp only [cfgRegs, List.mem_cons, List.not_mem_nil, or_false] at h
  rcases h with rfl | rfl | rfl | rfl | rfl <;> rfl

theorem cfgRegs_plain (h : r ∈ cfgRegs) : r.volatile = false ∧ r ≠ .status := by
  revert r
  decide

/-- While idle a configuration register takes the value written, and the other four keep theirs. -/
theorem writeReg_cfg (hi : s.engine = none) (h : r ∈ cfgRegs) :
    ∃ cfg, s.writeReg r v = { s with cfg := cfg } ∧ cfg.reg r = v ∧
      ∀ r' ∈ cfgRegs, r' ≠ r → cfg.reg r' = s.cfg.reg r' := by
  have hb : s.busy = false := by simp [State.busy, hi]
  simp only [cfgRegs, List.mem_cons, List.not_mem_nil, or_false] at h
  rcases h with rfl | rfl | rfl | rfl | rfl <;>
    exact ⟨_, by simp [State.writeReg, State.writeCfg, hb]; rfl, rfl, by simp [cfgRegs, Operands.reg]⟩

/-! ### One bus access in one step -/

theorem busOffset_add {off : Nat} {base : Word} (hb : s.platform.regBase = base) (h : off < Config.regSpace) :
    s.busOffset (base + BitVec.ofNat 64 off) = off := by
  rw [State.busOffset, hb, BitVec.add_comm, BitVec.add_sub_cancel, BitVec.toNat_ofNat, Nat.mod_eq_of_lt]
  exact Nat.lt_trans h (by decide)

theorem step_busWrite_ofOffset {off : Nat} (hlt : off < Config.regSpace) (h8 : off % 8 = 0)
    (h : s.inputs = .busWrite (s.platform.regBase + BitVec.ofNat 64 off) 8 v :: rest) :
    step s = .next (State.writeReg { s with inputs := rest } (.ofOffset off) v) := by
  simp [step, h, act, hostWrite, busOffset_add (s := { s with inputs := rest }) rfl hlt, accessOk, h8, Nat.not_le.2 hlt]

theorem step_busRead_ofOffset {off : Nat} (hlt : off < Config.regSpace) (h8 : off % 8 = 0)
    (h : s.inputs = .busRead (s.platform.regBase + BitVec.ofNat 64 off) 8 :: rest) :
    step s = .next (State.hostReadReg { s with inputs := rest } (.ofOffset off)) := by
  simp [step, h, act, hostRead, busOffset_add (s := { s with inputs := rest }) rfl hlt, accessOk, h8, Nat.not_le.2 hlt]

/-- A 64-bit bus write at a register's offset writes it. -/
theorem step_busWrite (r : Reg) (h : s.inputs = .busWrite (s.platform.regBase + BitVec.ofNat 64 r.offset) 8 v :: rest) :
    step s = .next (State.writeReg { s with inputs := rest } r v) := by
  rw [step_busWrite_ofOffset r.offset_lt r.offset_mod_eight h, Reg.ofOffset_offset]

/-- A 64-bit bus read at a register's offset reads it. -/
theorem step_busRead (r : Reg) (h : s.inputs = .busRead (s.platform.regBase + BitVec.ofNat 64 r.offset) 8 :: rest) :
    step s = .next (State.hostReadReg { s with inputs := rest } r) := by
  rw [step_busRead_ofOffset r.offset_lt r.offset_mod_eight h, Reg.ofOffset_offset]

/-- No register shows the host's coming operations. -/
@[simp] theorem readReg_inputs (s : State) (rest : List Input) (r : Reg) :
    State.readReg { s with inputs := rest } r = s.readReg r := by
  cases r <;> rfl

/-- A register that is neither STATUS nor volatile reads its value in either phase, without side effect (R53, R66). -/
theorem hostReadReg_plain (hv : r.volatile = false) (hs : r ≠ .status) :
    s.hostReadReg r = s.deliver (s.readReg r) := by
  simp [State.hostReadReg, hv, hs]

theorem step_busRead_cfg (hr : r ∈ cfgRegs)
    (h : s.inputs = .busRead (s.platform.regBase + BitVec.ofNat 64 r.offset) 8 :: rest) :
    step s = .next { s with inputs := rest, hostData := s.cfg.reg r } := by
  obtain ⟨hv, hs⟩ := cfgRegs_plain hr
  rw [step_busRead r h, hostReadReg_plain hv hs, readReg_inputs, readReg_cfg hr]
  rfl

/-- A volatile register reads its value while idle and a free word while BUSY (R39-R42, R53). -/
theorem step_busRead_volatile (r : Reg) (hv : r.volatile = true)
    (h : s.inputs = .busRead (s.platform.regBase + BitVec.ofNat 64 r.offset) 8 :: rest) :
    ∃ t, step s = .next t ∧ t = { s with inputs := rest, hostData := t.hostData, draws := t.draws } ∧
      (s.busy = false → t.hostData = s.readReg r) ∧ (s.busy = true → ∃ n, t.hostData = Config.freeWord n) := by
  have hs : r ≠ .status := by rintro rfl; cases hv
  have hbusy : State.busy { s with inputs := rest } = s.busy := rfl
  refine ⟨_, step_busRead r h, ?_⟩
  cases hb : s.busy with
  | true =>
    simp only [State.hostReadReg, hbusy, hb, hv, Bool.and_self, if_true]
    exact ⟨rfl, by simp, fun _ => ⟨_, rfl⟩⟩
  | false =>
    simp only [State.hostReadReg, hbusy, hb, Bool.false_and, Bool.false_eq_true, if_false, if_neg hs]
    exact ⟨rfl, fun _ => readReg_inputs s rest r, by simp⟩

/-! ### The bits of STATUS and CTRL -/

theorem ctrlWord_eq (s : State) : s.ctrlWord = if s.irqEn then 1#64 else 0#64 := by
  unfold State.ctrlWord
  cases s.irqEn <;> rfl

theorem ctrlWord_reserved (s : State) : s.ctrlWord.extractLsb' 1 63 = 0#63 := by
  rw [ctrlWord_eq]
  cases s.irqEn <;> rfl

/-- STATUS holds its fields at the bits R26 gives them. -/
theorem statusWord_bits (s : State) :
    s.statusWord.getLsbD 0 = s.busy ∧ s.statusWord.getLsbD 1 = s.done ∧ s.statusWord.getLsbD 2 = s.err ∧
    s.statusWord.getLsbD 3 = s.drop ∧ s.statusWord.getLsbD 4 = s.flags.freqValid ∧
    s.statusWord.getLsbD 5 = s.flags.treeValid ∧ s.statusWord.getLsbD 6 = s.flags.etableValid ∧
    s.statusWord.getLsbD 7 = s.flags.dtableValid := by
  simp only [State.statusWord, BitVec.getLsbD_append, BitVec.getLsbD_ofBool]
  simp

/-- STATUS as its reserved part, LAST_OP, CODE and one byte of single bits (R26). -/
theorem statusWord_fields (s : State) :
    s.statusWord.extractLsb' 8 8 = s.code.toByte ∧ s.statusWord.extractLsb' 16 8 = s.lastOp ∧
    s.statusWord.extractLsb' 24 40 = 0#40 := by
  simp (disch := decide) only [State.statusWord, BitVec.extractLsb'_append_eq_of_le,
    BitVec.extractLsb'_append_eq_of_add_le]
  simp

end Sys2Proof.Machine
end

section
/-! The statements about writes of registers (10_state.md R27-R33, R43, R50, R51). -/

namespace Sys2Proof.Machine

/-- On the engine's turn a step is that turn: when it is the next input, and when no input is left. -/
theorem step_runs_latched {s : State} {c : Latched} {i : Instr} (h : s.engine = some c) (hd : decode c.word = .ok i) :
    (s.inputs = [] → step s = exec i s) ∧
    ∀ rest, s.inputs = .engine :: rest → step s = exec i { s with inputs := rest } := by
  refine ⟨fun hin => ?_, fun rest hin => ?_⟩ <;> simp [step, hin, act, engineTurn, h, hd]

/-- Settles O5: the write issues the command (R50), and the engine's next turn runs it. -/
theorem acceptedCommandIsLatchedAndRuns : Obligations.AcceptedCommandIsLatchedAndRuns := by
  intro s w rest hi hin
  have hissue : State.writeReg { s with inputs := rest } .cmd w = State.issue { s with inputs := rest } w := by
    simp [State.writeReg, State.busy, hi]
  refine ⟨State.issue { s with inputs := rest } w, hissue ▸ step_busWrite .cmd hin, rfl, rfl, rfl, fun i hd => ?_⟩
  exact step_runs_latched (s := State.issue { s with inputs := rest } w) rfl hd

/-- Settles O6: CMD and the configuration registers drop a write while BUSY, STATUS and CTRL never do. -/
theorem writesWhileBusyAreDropped : Obligations.WritesWhileBusyAreDropped := by
  refine fun s v rest => ⟨fun off hoff hb hin => ?_, step_busWrite .status, step_busWrite .ctrl⟩
  obtain ⟨r, hr, rfl⟩ := List.mem_map.1 (show off ∈ (Reg.cmd :: cfgRegs).map Reg.offset from hoff)
  rw [step_busWrite r hin, writeReg_dropped (s := { s with inputs := rest }) hb hr]
  rfl

/-- Settles O7: the two steps are the write, which the register takes whole, and the read. -/
theorem configurationRegistersReadBack : Obligations.ConfigurationRegistersReadBack := by
  intro s v rest off hoff hi hin
  obtain ⟨r, hr, rfl⟩ := List.mem_map.1 (show off ∈ cfgRegs.map Reg.offset from hoff)
  generalize hq : (Input.busRead (s.platform.regBase + BitVec.ofNat 64 r.offset) 8 :: rest) = inputs at hin
  obtain ⟨cfg, hw, hread, hothers⟩ := writeReg_cfg (s := { s with inputs := inputs }) (v := v) hi hr
  refine ⟨_, _, (step_busWrite r hin).trans (congrArg _ hw), step_busRead_cfg hr hq.symm, hread,
    fun off' hoff' hne => ?_, by rw [← hread]⟩
  obtain ⟨r', hr', rfl⟩ := List.mem_map.1 (show off' ∈ cfgRegs.map Reg.offset from hoff')
  rw [Reg.ofOffset_offset, readReg_cfg hr', readReg_cfg hr']
  exact hothers r' hr' (fun h => hne (h ▸ rfl))

/-- Settles O8: every other aligned offset names a read-only or reserved register, which ignores a write. -/
theorem reservedAndReadOnlyIgnoreWrites : Obligations.ReservedAndReadOnlyIgnoreWrites := by
  refine ⟨fun s v rest off hlt h8 hcmd hstatus hctrl hcfg hin => ?_, fun s rest off hoff h8 hin => ?_,
    fun s => ⟨(statusWord_fields s).2.2, ctrlWord_reserved s⟩, fun s v v' => ⟨fun h1 h3 => ?_, fun h0 => ?_⟩⟩
  · rw [step_busWrite_ofOffset hlt h8 hin, writeReg_ignored]
    intro hmem
    have hoff := Reg.offset_ofOffset hlt h8 (fun hr => by simp [hr, cfgRegs] at hmem)
    have := hoff ▸ writable_offset hmem
    omega
  · rw [step_busRead_ofOffset (by simp only [Config.regSpace]; omega) h8 hin, Reg.ofOffset_reserved hoff,
      hostReadReg_plain rfl (by decide)]
    rfl
  · simp only [State.writeReg, State.writeStatus, h1, h3]
  · simp only [State.writeReg, State.writeCtrl, h0]

end Sys2Proof.Machine
end

section
/-! The statements about reads of registers and about reset (10_state.md R24-R42, R54). -/

namespace Sys2Proof.Machine

variable {s : State} {rest : List Input}

/-! ### What the summary registers and CODE_WIN show -/

section
variable {α : Type} (f : α → Nat) {l : List α}

/-- The maximum the summary registers compute is the library's maximum of a list. -/
theorem foldl_max_map_eq_max (h : l.map f ≠ []) : l.foldl (fun n x => max n (f x)) 0 = (l.map f).max h := by
  rw [← List.foldl_map (f := f) (g := max), List.foldl_max_eq_max h, Nat.zero_max]

theorem le_foldl_max {x : α} (h : x ∈ l) : f x ≤ l.foldl (fun n x => max n (f x)) 0 := by
  have hm : f x ∈ l.map f := List.mem_map_of_mem h
  rw [foldl_max_map_eq_max f (List.ne_nil_of_mem hm)]
  exact List.le_max_of_mem hm

theorem exists_eq_foldl_max (h : l ≠ []) : ∃ x ∈ l, f x = l.foldl (fun n x => max n (f x)) 0 := by
  have hm : l.map f ≠ [] := by simpa using h
  rw [foldl_max_map_eq_max f hm]
  exact List.mem_map.1 (List.max_mem hm)

end

/-- ET_COUNT counts the symbols with a code (R39). -/
theorem length_coded (codes : Table Bits) :
    (coded codes).length = allBytes.countP fun b => decide (0 < (codes.at b).length) := by
  rw [coded, Table.entries_eq_map, ← List.countP_eq_length_filter, List.countP_map]
  refine List.countP_congr fun b _ => ?_
  simp [List.length_pos_iff]

/-- ET_MAXLEN is the longest code of the code table (R39): a bound that some symbol attains. -/
theorem etMaxlen_spec (h : s.flags.etableValid = true) :
    (∀ b, (s.tables.codes.at b).length ≤ s.etMaxlen) ∧ ∃ b, (s.tables.codes.at b).length = s.etMaxlen := by
  rw [State.etMaxlen, if_pos h, Table.toList_eq_map]
  refine ⟨fun b => le_foldl_max List.length (List.mem_map_of_mem (mem_allBytes b)), ?_⟩
  obtain ⟨c, hc, hmax⟩ := exists_eq_foldl_max List.length (l := allBytes.map s.tables.codes.at)
    (by simp [← List.length_pos_iff])
  obtain ⟨b, -, rfl⟩ := List.mem_map.1 hc
  exact ⟨b, hmax⟩

/-- DT_MAXLEN is the longest code of the decoding table (R39): a bound that some entry attains. -/
theorem dtMaxlen_spec (h : s.flags.dtableValid = true) (hne : s.tables.dt ≠ []) :
    (∀ e ∈ s.tables.dt, e.code.length ≤ s.dtMaxlen) ∧ ∃ e ∈ s.tables.dt, e.code.length = s.dtMaxlen := by
  rw [State.dtMaxlen, if_pos h, longestCode]
  exact ⟨fun e he => le_foldl_max (fun e => e.code.length) he, exists_eq_foldl_max (fun e => e.code.length) hne⟩

/-- CODE_WIN shows the code bit by bit, 0 past its end (R42). -/
theorem codeWord_getLsbD (s : State) (sym : Byte) (w : BitVec 2) {b : Nat} (hb : b < 64) :
    (s.codeWord sym w).getLsbD b =
      (s.flags.etableValid && (s.tables.codes.at sym).getD (64 * w.toNat + b) false) := by
  unfold State.codeWord
  cases s.flags.etableValid <;> simp [BitVec.getLsbD_ofBoolListLE, hb]

/-! ### Reads of STATUS and of the plain registers -/

/-- A STATUS read delivers it; with BUSY = 0 the host has seen every completion (R236; log entry 17). -/
theorem hostReadReg_status (s : State) :
    s.hostReadReg .status = { s with hostData := s.statusWord, unseen := if s.busy then s.unseen else [] } := by
  have hbusy : (s.deliver s.statusWord).busy = s.busy := rfl
  simp only [State.hostReadReg, Reg.volatile, Bool.and_false, Bool.false_eq_true, if_false, if_true, State.readReg,
    State.seeStatus, hbusy]
  cases s.busy <;> rfl

/-- The registers that are neither STATUS, a summary register nor a window, and CMD, which reads 0. -/
def plainRegs : List Reg :=
  [.id, .cmd, .ctrl, .srcAddr, .srcLen, .dstAddr, .dstCap, .origLen, .resultLen, .payloadBits, .tableSegLen,
    .payloadAddr, .payloadLen, .errAddr, .errInfo]

theorem plainRegs_plain {r : Reg} (h : r ∈ plainRegs) : r.volatile = false ∧ r ≠ .status := by
  revert r
  decide

/-! ### The statements -/

/-- Settles O9: each of these registers is read by its offset, and its read delivers its value. -/
theorem registersReadTheirValues : Obligations.RegistersReadTheirValues := by
  intro s rest p hp hin
  obtain ⟨r, hr, rfl⟩ : ∃ r ∈ plainRegs, (r.offset, s.readReg r) = p :=
    List.mem_map.1 (by simpa [plainRegs, Reg.offset, State.readReg, ctrlWord_eq, Config.hwId] using hp)
  obtain ⟨hv, hs⟩ := plainRegs_plain hr
  rw [step_busRead r hin, hostReadReg_plain hv hs, readReg_inputs]
  rfl

/-- Settles O10: the read delivers STATUS, whose bits are the fields, and shows the host what completed. -/
theorem statusReadsItsFields : Obligations.StatusReadsItsFields := by
  intro s rest hin
  obtain ⟨hbusy, hdone, herr, hdrop, hfreq, htree, het, hdt⟩ := statusWord_bits s
  obtain ⟨hcode, hop, hrsv⟩ := statusWord_fields s
  refine ⟨s.statusWord, if s.busy then s.unseen else [], ?_, hbusy, hdone, herr, hdrop, hfreq, htree, het, hdt, hcode,
    hop, hrsv, rfl⟩
  rw [step_busRead .status hin, hostReadReg_status]
  rfl

/-- Settles O11: each window is a volatile register. -/
theorem windowsShowTheTables : Obligations.WindowsShowTheTables := by
  refine fun s rest sym w => ⟨step_busRead_volatile (.freqWin sym) rfl, step_busRead_volatile (.clenWin sym) rfl, ?_⟩
  intro hin
  obtain ⟨t, hstep, hframe, hidle, hbusy⟩ := step_busRead_volatile (.codeWin sym w) rfl hin
  exact ⟨t, hstep, hframe, fun hb b hlt => hidle hb ▸ codeWord_getLsbD s sym w hlt, hbusy⟩

/-- Settles O12: each summary register is a volatile register. -/
theorem summaryRegistersCountTheTables : Obligations.SummaryRegistersCountTheTables := by
  intro s rest off hoff hin
  simp only [List.mem_cons, List.not_mem_nil, or_false] at hoff
  rcases hoff with rfl | rfl | rfl | rfl
  · obtain ⟨t, hstep, hframe, hidle, hbusy⟩ := step_busRead_volatile .etCount rfl hin
    refine ⟨t, hstep, hframe, hbusy, fun hb _ => (hidle hb).trans ?_, by simp, by simp, by simp⟩
    rw [State.readReg, State.etCount, length_coded]
    split <;> rfl
  · obtain ⟨t, hstep, hframe, hidle, hbusy⟩ := step_busRead_volatile .etMaxlen rfl hin
    exact ⟨t, hstep, hframe, hbusy, by simp, fun hb _ => ⟨s.etMaxlen, hidle hb, fun hf => by simp [State.etMaxlen, hf],
      etMaxlen_spec⟩, by simp, by simp⟩
  · obtain ⟨t, hstep, hframe, hidle, hbusy⟩ := step_busRead_volatile .dtCount rfl hin
    refine ⟨t, hstep, hframe, hbusy, by simp, by simp, fun hb _ => (hidle hb).trans ?_, by simp⟩
    rw [State.readReg, State.dtCount]
    split <;> rfl
  · obtain ⟨t, hstep, hframe, hidle, hbusy⟩ := step_busRead_volatile .dtMaxlen rfl hin
    refine ⟨t, hstep, hframe, hbusy, by simp, by simp, by simp, fun hb _ =>
      ⟨s.dtMaxlen, hidle hb, fun h => ?_, dtMaxlen_spec⟩⟩
    rcases h with h | h <;> simp [State.dtMaxlen, longestCode, h]

theorem applyReset_eq (s : State) :
    ∃ m d, s.applyReset = { State.reset with
      mem := m, platform := s.platform, inputs := s.inputs, hostData := s.hostData, draws := d } := by
  unfold State.applyReset
  split
  · exact ⟨_, _, rfl⟩
  · obtain h | ⟨_, -, -, h⟩ := abandon_cases s ‹_› <;> rw [h] <;> exact ⟨_, _, rfl⟩

theorem reset_statusWord : State.reset.statusWord = 0#64 := by decide

/-- The reset values of R54 do not depend on what stands outside the block. -/
theorem reset_registers (m : Memory) (p : Platform) (l : List Input) (v : Word) (d : Nat) :
    let u := { State.reset with mem := m, platform := p, inputs := l, hostData := v, draws := d }
    u.engine = none ∧ u.irq = false ∧ (∀ b, u.tables.freq.at b = 0#64) ∧ u.readReg .id = 0x0000000750495A48#64 ∧
      ∀ r, r ≠ .id → u.readReg r = 0#64 := by
  refine ⟨rfl, rfl, fun b => Table.at_replicate _ b, rfl, fun r hr => ?_⟩
  cases r with
  | id => exact absurd rfl hr
  | status => exact (rfl : _ = State.reset.statusWord).trans reset_statusWord
  | ctrl => exact ctrlWord_eq _
  | _ => rfl

/-- Settles O15: a reset leaves the reset state but for what stands outside the block. -/
theorem resetValues : Obligations.ResetValues := by
  intro s rest hin
  refine ⟨State.applyReset { s with inputs := rest }, by rw [step, hin]; rfl, ?_⟩
  rintro u (rfl | rfl)
  · obtain ⟨m, d, ht⟩ := applyReset_eq { s with inputs := rest }
    exact ht ▸ reset_registers _ _ _ _ _
  · exact reset_registers _ _ _ _ _

end Sys2Proof.Machine
end

section
/-! The invariants of the latch and of the tables (10_state.md R26, R44, R48, R50, R51): the reset state meets them and
every step keeps them. -/

namespace Sys2Proof.Machine

variable {s t : State}

/-- A step is the action of one input; with none left the engine has its turn. -/
theorem step_is_act (h : step s = .next t) : ∃ l i, act { s with inputs := l } i = .next t := by
  obtain ⟨-, h⟩ | ⟨i, rest, -, h⟩ := step_cases h
  · exact ⟨s.inputs, .engine, h⟩
  · exact ⟨rest, i, h⟩

/-- The engine is idle after its turn. -/
theorem engineTurn_engine (h : engineTurn s = .next t) : t.engine = none := by
  cases hc : s.engine with
  | none => cases (engineTurn_idle hc).symm.trans h; exact hc
  | some c =>
    obtain ⟨u, hu, hcomp⟩ := engineTurn_completes hc
    cases hu.symm.trans h
    exact hcomp.engine

theorem applyReset_engine (s : State) : s.applyReset.engine = none := by
  obtain ⟨m, d, h⟩ := applyReset_eq s
  rw [h]
  rfl

/-! ### The latch -/

theorem latchSound_of_idle (h : s.engine = none) : s.LatchSound := by
  intro c hc
  cases h.symm.trans hc

/-- An issue latches what R50 says; every other register write leaves the latch alone, or finds the engine idle. -/
theorem writeReg_latchSound (hs : s.LatchSound) (r : Reg) (v : Word) : (s.writeReg r v).LatchSound := by
  obtain ⟨-, -, h⟩ | h | h | ⟨hi, cfg, h⟩ | ⟨-, h⟩ | h := writeReg_cases s r v <;> rw [h]
  · rintro c ⟨⟩
    exact ⟨rfl, rfl, rfl, rfl⟩
  · intro c hc
    obtain ⟨hops, hdone, hcode, hop⟩ := hs c hc
    exact ⟨hops, by simp [hdone], hcode, hop⟩
  · exact hs
  · exact latchSound_of_idle hi
  · exact hs
  · exact hs

theorem act_latchSound {i : Input} (hs : s.LatchSound) (h : act s i = .next t) : t.LatchSound := by
  obtain ⟨-, h⟩ | ⟨a, n, v, -, rfl | ⟨r, rfl⟩⟩ | ⟨a, n, -, d, u, k, rfl⟩ | ⟨a, v, -, -, rfl⟩ | ⟨a, -, d, k, rfl⟩ |
    ⟨-, rfl⟩ | ⟨fs, -, rfl⟩ := act_cases h
  · exact latchSound_of_idle (engineTurn_engine h)
  · exact hs
  · exact writeReg_latchSound hs r v
  · exact hs
  · exact hs
  · exact hs
  · exact latchSound_of_idle (applyReset_engine s)
  · exact hs

/-- Settles O56: one input at a time. -/
theorem stepKeepsTheLatchSound : Obligations.StepKeepsTheLatchSound := by
  intro s t hs h
  obtain ⟨l, i, ha⟩ := step_is_act h
  exact act_latchSound (s := { s with inputs := l }) hs ha

/-! ### The counts -/

@[simp] theorem totalCount_zero : totalCount (Vector.replicate 256 0#64) = 0 := by
  simp only [totalCount, Table.at_replicate, BitVec.toNat_zero, List.map_const', List.sum_replicate, smul_zero]

/-- Counting one more symbol adds at most one to the total (less only where a counter wraps). -/
theorem totalCount_put_succ_le (f : Table Word) (b : Byte) :
    totalCount (f.put b (f.at b + 1#64)) ≤ totalCount f + 1 := by
  have hsplit : ∀ g : Table Word,
      totalCount g = (g.at b).toNat + ((allBytes.erase b).map fun c => (g.at c).toNat).sum :=
    fun g => (List.sum_map_erase _ (mem_allBytes b)).symm
  have hrest : ((allBytes.erase b).map fun c => ((f.put b (f.at b + 1#64)).at c).toNat) =
      (allBytes.erase b).map fun c => (f.at c).toNat :=
    List.map_congr_left fun c hc => by rw [Table.at_put_other _ _ (nodup_allBytes.mem_erase_iff.1 hc).1.symm]
  have hb : (f.at b + 1#64).toNat ≤ (f.at b).toNat + 1 := by
    rw [BitVec.toNat_add]
    exact Nat.mod_le _ _
  rw [hsplit, hsplit f, hrest, Table.at_put_same]
  omega

theorem totalCount_countBytes_le (bs : List Byte) : totalCount (countBytes bs) ≤ bs.length := by
  suffices h : ∀ f : Table Word,
      totalCount (bs.foldl (fun f b => f.put b (f.at b + 1#64)) f) ≤ totalCount f + bs.length by
    simpa [countBytes] using h (Vector.replicate 256 0#64)
  induction bs with
  | nil => simp
  | cons b bs ih =>
    intro f
    have := ih (f.put b (f.at b + 1#64))
    have := totalCount_put_succ_le f b
    rw [List.foldl_cons, List.length_cons]
    omega

theorem length_readSource {o : Operands} {bs : List Byte} (h : readSource s o = .ok bs) :
    bs.length = o.srcLen.toNat := by
  rw [portReadBytes_cases h, Memory.length_bytes]

/-! ### The tree -/

/-- Merging only adds nodes to the arena. -/
theorem length_le_mergeLoop (n : Nat) (q : Queue) (nodes : List Node) :
    nodes.length ≤ (mergeLoop n q nodes).length := by
  induction n generalizing q nodes with
  | zero => simp [mergeLoop]
  | succ n ih =>
    match q with
    | [] | [_] => simp [mergeLoop]
    | (k1, a) :: (k2, b) :: q =>
      rw [mergeLoop]
      exact Nat.le_trans (by simp) (ih _ _)

theorem length_buildNodes_pos {freq : Table Word} (h : seeds freq ≠ []) : 0 < (buildNodes freq).length := by
  have hseeds := List.length_pos_iff.2 h
  have := length_le_mergeLoop (seeds freq).length (seedQueue freq) ((seeds freq).map fun e => .leaf e.1)
  rw [List.length_map] at this
  exact Nat.lt_of_lt_of_le hseeds this

/-! ### What each table write does to the soundness of the tables -/

/-- The decoding table and its flag do not matter to the other tables' soundness. -/
theorem State.TablesSound.congr {v : Bool} {d : List DtEntry} (h : s.TablesSound)
    (hf : t.flags = { s.flags with dtableValid := v }) (ht : t.tables = { s.tables with dt := d }) : t.TablesSound := by
  obtain ⟨htree, hcodes, hcounts, hnodes, htable⟩ := h
  constructor <;> simp only [hf, ht] <;> assumption

/-- Without a tree and a code table only the counts say anything. -/
theorem tablesSound_of_no_tree (ht : s.flags.treeValid = false) (he : s.flags.etableValid = false)
    (hc : totalCount s.tables.freq ≤ Config.maxLen) : s.TablesSound where
  treeAfterCount h := by cases ht.symm.trans h
  codesAfterTree h := by cases he.symm.trans h
  counts := hc
  tree h := by cases ht.symm.trans h
  codes h := by cases he.symm.trans h

theorem tablesSound_storeCounts {bs : List Byte} (hbs : bs.length ≤ Config.maxLen) :
    (s.storeCounts bs).TablesSound :=
  tablesSound_of_no_tree rfl rfl (Nat.le_trans (totalCount_countBytes_le bs) hbs)

theorem tablesSound_dropCounts (s : State) : s.dropCounts.TablesSound :=
  tablesSound_of_no_tree rfl rfl (by simp)

theorem State.TablesSound.dropTree (h : s.TablesSound) : s.dropTree.TablesSound :=
  tablesSound_of_no_tree rfl rfl h.counts

theorem State.TablesSound.storeTree (h : s.TablesSound) (hf : s.flags.freqValid = true)
    (hne : seeds s.tables.freq ≠ []) : s.storeTree.TablesSound where
  treeAfterCount _ := hf
  codesAfterTree h := by cases h
  counts := h.counts
  tree _ := ⟨rfl, Nat.sub_add_cancel (length_buildNodes_pos hne)⟩
  codes h := by cases h

theorem State.TablesSound.storeCodes (h : s.TablesSound) (ht : s.flags.treeValid = true) :
    s.storeCodes.TablesSound where
  treeAfterCount := h.treeAfterCount
  codesAfterTree _ := ht
  counts := h.counts
  tree := h.tree
  codes _ := rfl

theorem tablesSound_clear (s : State) : s.clearTables.TablesSound :=
  tablesSound_of_no_tree rfl rfl (by simp)

/-- Every command keeps the tables sound: by the writes of its stages. -/
theorem exec_tablesSound {i : Instr} (hs : s.TablesSound) (h : exec i s = .next t) : t.TablesSound := by
  cases i with
  | nop =>
    obtain rfl := execNop_cases h
    exact hs.congr rfl rfl
  | count =>
    obtain ⟨e, -, rfl⟩ | ⟨hp, ⟨bs, hbs, rfl⟩ | ⟨e, -, rfl⟩⟩ := execCount_cases h
    · exact hs.congr rfl rfl
    · have hlen := length_readSource hbs ▸ ((precheck_eq_none.1 hp).1 rfl).1
      exact (tablesSound_storeCounts hlen).congr rfl rfl
    · exact (tablesSound_dropCounts s).congr rfl rfl
  | buildTree =>
    obtain ⟨e, -, rfl⟩ | ⟨hp, ⟨-, rfl⟩ | ⟨hne, rfl⟩⟩ := execBuildTree_cases h
    · exact hs.congr rfl rfl
    · exact hs.dropTree.congr rfl rfl
    · exact (hs.storeTree ((precheck_eq_none.1 hp).2.2.2 4 rfl) hne).congr rfl rfl
  | buildTable =>
    obtain ⟨e, -, rfl⟩ | ⟨hp, rfl⟩ := execBuildTable_cases h
    · exact hs.congr rfl rfl
    · exact (hs.storeCodes ((precheck_eq_none.1 hp).2.2.2 5 rfl)).congr rfl rfl
  | encode =>
    obtain ⟨e, -, rfl⟩ | ⟨-, ⟨bits, m, -, rfl⟩ | ⟨e, -, rfl⟩⟩ := execEncode_cases h <;> exact hs.congr rfl rfl
  | decode =>
    obtain ⟨e, -, rfl⟩ | ⟨-, ⟨m, -, rfl⟩ | ⟨e, -, rfl⟩⟩ := execDecode_cases h <;> exact hs.congr rfl rfl
  | serialize =>
    obtain ⟨e, -, rfl⟩ | ⟨-, ⟨m, -, rfl⟩ | ⟨e, -, rfl⟩⟩ := execSerialize_cases h <;> exact hs.congr rfl rfl
  | deserialize =>
    obtain ⟨e, -, rfl⟩ | ⟨-, ⟨c, -, rfl⟩ | ⟨e, -, rfl⟩⟩ := execDeserialize_cases h <;> exact hs.congr rfl rfl
  | compress =>
    obtain ⟨e, -, rfl⟩ | ⟨hp, ⟨e, -, rfl⟩ | ⟨bs, hbs, ⟨-, rfl⟩ | ⟨hne, rfl⟩⟩⟩ := execCompress_cases h
    · exact hs.congr rfl rfl
    · exact (tablesSound_dropCounts s).congr rfl rfl
    all_goals
      have hlen := length_readSource hbs ▸ ((precheck_eq_none.1 hp).1 rfl).1
      have hcounted := tablesSound_storeCounts (s := s) hlen
    · exact hcounted.dropTree.congr rfl rfl
    · have hstages := (hcounted.storeTree rfl hne).storeCodes rfl
      obtain ⟨m, -, ht⟩ | ⟨e, -, ht⟩ := compressTail_cases ((s.storeCounts bs).storeTree.storeCodes) s.operands <;>
        rw [ht] <;> exact hstages.congr rfl rfl
  | decompress =>
    obtain ⟨e, -, rfl⟩ | ⟨-, ⟨e, -, rfl⟩ | ⟨c, -, ⟨e, -, rfl⟩ | ⟨m, -, rfl⟩⟩⟩ := execDecompress_cases h <;>
      exact hs.congr rfl rfl
  | clear =>
    obtain rfl := execClear_cases h
    exact (tablesSound_clear s).congr rfl rfl

theorem engineTurn_tablesSound (hs : s.TablesSound) (h : engineTurn s = .next t) : t.TablesSound := by
  obtain ⟨-, rfl⟩ | ⟨c, i, -, -, h⟩ | ⟨c, r, -, -, rfl⟩ := engineTurn_cases h
  · exact hs
  · exact exec_tablesSound hs h
  · exact hs.congr rfl rfl

theorem tablesSound_reset : State.reset.TablesSound :=
  tablesSound_of_no_tree rfl rfl (Nat.le_trans (Nat.le_of_eq totalCount_zero) (Nat.zero_le _))

/-- A register write touches neither the flags nor the tables. -/
theorem writeReg_tables (s : State) (r : Reg) (v : Word) :
    (s.writeReg r v).flags = s.flags ∧ (s.writeReg r v).tables = s.tables := by
  obtain ⟨-, -, h⟩ | h | h | ⟨-, cfg, h⟩ | ⟨-, h⟩ | h := writeReg_cases s r v <;> rw [h] <;> exact ⟨rfl, rfl⟩

theorem act_tablesSound {i : Input} (hs : s.TablesSound) (h : act s i = .next t) : t.TablesSound := by
  obtain ⟨-, h⟩ | ⟨a, n, v, -, rfl | ⟨r, rfl⟩⟩ | ⟨a, n, -, d, u, k, rfl⟩ | ⟨a, v, -, -, rfl⟩ | ⟨a, -, d, k, rfl⟩ |
    ⟨-, rfl⟩ | ⟨fs, -, rfl⟩ := act_cases h
  · exact engineTurn_tablesSound hs h
  · exact hs
  · exact hs.congr (writeReg_tables s r v).1 (writeReg_tables s r v).2
  · exact hs.congr rfl rfl
  · exact hs.congr rfl rfl
  · exact hs.congr rfl rfl
  · obtain ⟨m, d, h⟩ := applyReset_eq s
    rw [h]
    exact tablesSound_reset.congr rfl rfl
  · exact hs.congr rfl rfl

/-- Settles O57: only a command's stages write the tables, and each leaves them as its flags say. -/
theorem stepKeepsTheTablesSound : Obligations.StepKeepsTheTablesSound := by
  intro s t hs h
  obtain ⟨l, i, ha⟩ := step_is_act h
  exact act_tablesSound (s := { s with inputs := l }) (hs.congr rfl rfl) ha

/-- Settles O59: each invariant on its own. -/
theorem resetIsSound : Obligations.ResetIsSound where
  mem := reset_mem_wf
  latch := latchSound_of_idle rfl
  tables := tablesSound_reset
  dt := ⟨by decide, by decide, by decide, by decide⟩

end Sys2Proof.Machine
end

section
/-! Why a command's rule ends with an error (60_exceptions.md R200, R203, R209): a failing access inside the range it
was made in, or one of the codes of its own checks. -/

namespace Sys2Proof.Machine

variable {p : Platform} {m m' : Memory} {e : Raise}

/-! ### Failing accesses -/

/-- `e` reports a failing read inside [a, a + n) (R61, R203). -/
def ReadFault (p : Platform) (a n : Nat) (e : Raise) : Prop :=
  ∃ x, e = ⟨.ioError, x, 0⟩ ∧ a ≤ x ∧ x < a + n ∧ p.busOk x .read = false

/-- `e` reports a failing write inside [a, a + n) (R61, R203). -/
def WriteFault (p : Platform) (a n : Nat) (e : Raise) : Prop :=
  ∃ x, e = ⟨.ioError, x, 1⟩ ∧ a ≤ x ∧ x < a + n ∧ p.busOk x .write = false

theorem ReadFault.mono {a n b k : Nat} (h : ReadFault p a n e) (hl : b ≤ a) (hr : a + n ≤ b + k) :
    ReadFault p b k e := by
  obtain ⟨x, he, hax, hxn, hx⟩ := h
  exact ⟨x, he, by omega, by omega, hx⟩

theorem WriteFault.mono {a n b k : Nat} (h : WriteFault p a n e) (hl : b ≤ a) (hr : a + n ≤ b + k) :
    WriteFault p b k e := by
  obtain ⟨x, he, hax, hxn, hx⟩ := h
  exact ⟨x, he, by omega, by omega, hx⟩

theorem ReadFault.code {a n : Nat} (h : ReadFault p a n e) : e.code = .ioError := by
  obtain ⟨x, rfl, -⟩ := h
  rfl

theorem WriteFault.code {a n : Nat} (h : WriteFault p a n e) : e.code = .ioError := by
  obtain ⟨x, rfl, -⟩ := h
  rfl

/-- Over readable memory no read fails. -/
theorem Readable.not_readFault {a n : Nat} (h : Readable p a n) : ¬ ReadFault p a n e := by
  rintro ⟨x, -, hax, hxn, hx⟩
  simp [h x hax hxn] at hx

theorem portRead_fault {a : Nat} (h : portRead p m a = .error e) : ReadFault p a 1 e := by
  cases hb : p.busOk a .read with
  | true => rw [portRead_ok hb] at h; cases h
  | false => rw [portRead_error hb] at h; cases h; exact ⟨a, rfl, by omega, by omega, hb⟩

theorem portWrite_fault {a : Nat} {v : Byte} (h : portWrite p m a v = .error e) : WriteFault p a 1 e := by
  cases hb : p.busOk a .write with
  | true => rw [portWrite_ok hb] at h; cases h
  | false => rw [portWrite_error hb] at h; cases h; exact ⟨a, rfl, by omega, by omega, hb⟩

theorem portReadBytes_fault {a n : Nat} (h : portReadBytes p m a n = .error e) : ReadFault p a n e := by
  induction n generalizing a with
  | zero => cases h
  | succ n ih =>
    simp only [portReadBytes] at h
    split at h
    · cases h
      exact (portRead_fault ‹_›).mono (by omega) (by omega)
    · split at h <;> cases h
      exact (ih ‹_›).mono (by omega) (by omega)

/-- If a read of `n` bytes completes, each of its accesses did. -/
theorem readable_of_portReadBytes {a n : Nat} {bs : List Byte} (h : portReadBytes p m a n = .ok bs) :
    Readable p a n := by
  induction n generalizing a bs with
  | zero => intro x _ _; omega
  | succ n ih =>
    simp only [portReadBytes] at h
    split at h
    · cases h
    · rename_i b hb
      split at h <;> cases h
      intro x hax hxn
      obtain rfl | hlt := Nat.eq_or_lt_of_le hax
      · by_contra hf
        rw [portRead_error (by simpa using hf)] at hb
        cases hb
      · exact ih ‹_› x hlt (by omega)

theorem portWriteBytes_fault {a : Nat} {vs : List Byte} (h : portWriteBytes p m a vs = .error e) :
    WriteFault p a vs.length e := by
  induction vs generalizing a m with
  | nil => cases h
  | cons v vs ih =>
    simp only [portWriteBytes] at h
    rw [List.length_cons]
    split at h
    · cases h
      exact (portWrite_fault ‹_›).mono (by omega) (by omega)
    · exact (ih h).mono (by omega) (by omega)

theorem portCopy_fault {src dst n : Nat} (h : portCopy p m src dst n = .error e) :
    ReadFault p src n e ∨ WriteFault p dst n e := by
  induction n generalizing src dst m with
  | zero => cases h
  | succ n ih =>
    simp only [portCopy] at h
    split at h
    · cases h
      exact .inl ((portRead_fault ‹_›).mono (by omega) (by omega))
    · split at h
      · cases h
        exact .inr ((portWrite_fault ‹_›).mono (by omega) (by omega))
      · exact (ih h).imp (·.mono (by omega) (by omega)) (·.mono (by omega) (by omega))

/-! ### ENCODE and SERIALIZE -/

@[simp] theorem length_pack (s : Bits) : (pack s).length = ceilDiv s.length 8 := by simp [pack]

@[simp] theorem length_header (orig : Word) (n : Nat) : (header orig n).length = 16 := by simp [header]

theorem encodeLoop_fault {codes : Table Bits} {a n : Nat} (h : encodeLoop p m codes a n = .error e) :
    ReadFault p a n e ∨ e.code = .missingCode := by
  induction n generalizing a with
  | zero => cases h
  | succ n ih =>
    simp only [encodeLoop] at h
    split at h
    · cases h
      exact .inl ((portRead_fault ‹_›).mono (by omega) (by omega))
    · split at h
      · cases h
        exact .inr rfl
      · split at h <;> cases h
        exact (ih ‹_›).imp_left (·.mono (by omega) (by omega))

theorem encodeRange_fault {s : State} {o : Operands} (h : encodeRange s o = .error e) :
    ReadFault s.platform o.srcAddr.toNat o.srcLen.toNat e ∨ WriteFault s.platform o.dstAddr.toNat o.dstCap.toNat e ∨
      e.code = .missingCode ∨ e.code = .capacityExceeded := by
  unfold encodeRange at h
  split at h
  · cases h
    exact (encodeLoop_fault ‹_›).imp_right (.inr ∘ .inl)
  · split at h
    · cases h
      exact .inr (.inr (.inr rfl))
    · split at h <;> cases h
      have hw := portWriteBytes_fault ‹_›
      rw [length_pack] at hw
      exact .inr (.inl (hw.mono (by omega) (by omega)))

theorem serializeRange_fault {s : State} {o : Operands} (h : serializeRange s o = .error e) :
    ReadFault s.platform o.srcAddr.toNat o.srcLen.toNat e ∨ WriteFault s.platform o.dstAddr.toNat o.dstCap.toNat e ∨
      e.code = .capacityExceeded := by
  unfold serializeRange at h
  split at h
  · cases h
    exact .inr (.inr rfl)
  · rename_i hcap
    simp only [serializedLen] at hcap
    split at h
    · cases h
      have hw := portWriteBytes_fault ‹_›
      rw [length_header] at hw
      exact .inr (.inl (hw.mono (by omega) (by omega)))
    · split at h
      · cases h
        exact .inr (.inl ((portWriteBytes_fault ‹_›).mono (by omega) (by omega)))
      · exact (portCopy_fault h).imp_right fun hw => .inl (hw.mono (by omega) (by omega))

/-- Stages 4 and 5 of COMPRESS read the source a second time, which cannot fail where the first time did not. -/
theorem writeContainer_fault {s : State} {o : Operands} (h : writeContainer s o = .error e)
    (hr : Readable s.platform o.srcAddr.toNat o.srcLen.toNat) :
    WriteFault s.platform o.dstAddr.toNat o.dstCap.toNat e ∨ e.code = .missingCode ∨ e.code = .capacityExceeded := by
  unfold writeContainer at h
  split at h
  · cases h
    exact .inr (.inr rfl)
  · rename_i hcap
    simp only [containerLen] at hcap
    split at h
    · cases h
      have hw := portWriteBytes_fault ‹_›
      rw [length_header] at hw
      exact .inl (hw.mono (by omega) (by omega))
    · split at h
      · cases h
        exact .inl ((portWriteBytes_fault ‹_›).mono (by omega) (by omega))
      · split at h
        · cases h
          exact (encodeLoop_fault ‹_›).elim (fun hf => absurd hf hr.not_readFault) (.inr ∘ .inl)
        · have hw := portWriteBytes_fault h
          rw [List.length_take] at hw
          exact .inl (hw.mono (by omega) (by omega))

/-! ### DECODE and DESERIALIZE -/

theorem decodeLoop_fault {dt : List DtEntry} {j : DecodeJob} {left k out : Nat} {cur : Byte} {acc : Bits}
    (hk : k + left = 8 * j.srcLen) (h : decodeLoop p dt j left k cur acc out m = .error e) :
    ReadFault p j.src j.srcLen e ∨ WriteFault p j.dst j.orig e ∨ e.code = .malformedStream := by
  induction left generalizing k cur acc out m with
  | zero =>
    simp only [decodeLoop] at h
    split at h <;> cases h
    exact .inr (.inr rfl)
  | succ left ih =>
    simp only [decodeLoop] at h
    split at h
    · split at h
      · cases h
        rename_i hread
        split at hread
        · exact .inl ((portRead_fault hread).mono (by omega) (by omega))
        · cases hread
      · split at h
        · split at h
          · cases h
            exact .inr (.inl ((portWrite_fault ‹_›).mono (by omega) (by omega)))
          · exact ih (by omega) h
        · split at h
          · cases h
            exact .inr (.inr rfl)
          · exact ih (by omega) h
    · cases h

theorem decodeStream_fault {dt : List DtEntry} {j : DecodeJob} (h : decodeStream p dt j m = .error e) :
    ReadFault p j.src j.srcLen e ∨ WriteFault p j.dst j.cap e ∨ e.code = .malformedStream ∨
      e.code = .capacityExceeded := by
  unfold decodeStream at h
  split at h
  · cases h
    exact .inr (.inr (.inr rfl))
  · split at h
    · cases h
    · split at h
      · cases h
        exact .inr (.inr (.inl rfl))
      · obtain hr | hw | hc := decodeLoop_fault (Nat.zero_add _) h
        · exact .inl hr
        · exact .inr (.inl (hw.mono (by omega) (by omega)))
        · exact .inr (.inr (.inl hc))

theorem parseCode_fault {a left : Nat} {acc : Bits} (h : parseCode p m a left acc = .error e) :
    ReadFault p a left e ∨ e.code = .malformedTable := by
  induction left generalizing a acc with
  | zero => cases h
  | succ left ih =>
    simp only [parseCode] at h
    split at h
    · cases h
      exact .inl ((portRead_fault ‹_›).mono (by omega) (by omega))
    · split at h
      · cases h
      · split at h
        · cases h
          exact .inr rfl
        · split at h
          · cases h
            exact .inr rfl
          · exact (ih h).imp_left (·.mono (by omega) (by omega))

/-- The code's characters and what is left after them make up the bytes the inner loop had before it, and a separator is
one of those left (R168). -/
theorem parseCode_length {a left rest : Nat} {acc code : Bits} {sep : Bool}
    (h : parseCode p m a left acc = .ok (code, sep, rest)) :
    code.length + rest = acc.length + left ∧ (sep = true → 1 ≤ rest) := by
  induction left generalizing a acc with
  | zero =>
    cases h
    exact ⟨rfl, by simp⟩
  | succ left ih =>
    simp only [parseCode] at h
    split at h
    · cases h
    · split at h
      · cases h
        exact ⟨rfl, fun _ => by omega⟩
      · split at h
        · cases h
        · split at h
          · cases h
          · obtain ⟨hlen, hsep⟩ := ih h
            rw [List.length_append, List.length_singleton] at hlen
            exact ⟨by omega, hsep⟩

theorem checkEntry_code {es : List DtEntry} {sym : Byte} {code : Bits} {a b : Nat}
    (h : checkEntry es sym code a b = some e) : e.code = .malformedTable := by
  unfold checkEntry at h
  split at h
  · cases h
    rfl
  · split at h
    · cases h
      rfl
    · split at h <;> cases h
      rfl

theorem parseLoop_fault {turns a left : Nat} {es : List DtEntry} (h : parseLoop p m turns a left es = .error e) :
    ReadFault p a left e ∨ e.code = .malformedTable := by
  induction turns generalizing a left es with
  | zero => cases h
  | succ turns ih =>
    cases left with
    | zero => cases h
    | succ left =>
      simp only [parseLoop] at h
      split at h
      · cases h
        exact .inl ((portRead_fault ‹_›).mono (by omega) (by omega))
      · split at h
        · cases h
          exact (parseCode_fault ‹_›).imp_left (·.mono (by omega) (by omega))
        · obtain ⟨hlen, hsep⟩ := parseCode_length ‹_›
          rw [List.length_nil] at hlen
          split at h
          · cases h
            exact .inr (checkEntry_code ‹_›)
          · split at h
            · have hrest := hsep ‹_›
              split at h
              · cases h
                exact .inr rfl
              · exact (ih h).imp_left (·.mono (by omega) (by omega))
            · cases h

/-- The last bytes of a read are a read of their own. -/
theorem Memory.drop_bytes (m : Memory) (a k n : Nat) : (m.bytes a (k + n)).drop k = m.bytes (a + k) n := by
  apply List.ext_getElem
  · simp
  · intro i h1 h2
    simp [Memory.bytes, Nat.add_assoc]

/-- code_table_segment_len of the container at `src` (R85). -/
def segLenAt (m : Memory) (src : Nat) : Nat := u64le (m.bytes (src + 8) 8)

theorem segLenAt_of_header {src : Nat} {hd : List Byte} (h : portReadBytes p m src 16 = .ok hd) :
    u64le (hd.drop 8) = segLenAt m src := by
  rw [portReadBytes_cases h]
  exact congrArg u64le (Memory.drop_bytes m src 8 8)

theorem parseContainer_segLen {src len : Nat} {c : Container} (h : parseContainer p m src len = .ok c) :
    c.segLen = segLenAt m src ∧ 16 + c.segLen ≤ len := by
  unfold parseContainer at h
  split at h
  · cases h
  · split at h
    · cases h
    · have hseg := segLenAt_of_header ‹_›
      dsimp only at h
      split at h
      · cases h
      · split at h
        · cases h
        · split at h <;> cases h
          exact ⟨hseg, by dsimp only; omega⟩

/-- DESERIALIZE reads the header and the segment, and nothing past them or past the source range. -/
theorem parseContainer_fault {src len : Nat} (h : parseContainer p m src len = .error e) :
    ReadFault p src (min len (16 + segLenAt m src)) e ∨ e.code = .truncatedFile ∨ e.code = .malformedTable := by
  unfold parseContainer at h
  split at h
  · cases h
    exact .inr (.inl rfl)
  · split at h
    · cases h
      exact .inl ((portReadBytes_fault ‹_›).mono (by omega) (by omega))
    · have hseg := segLenAt_of_header ‹_›
      dsimp only at h
      split at h
      · cases h
        exact .inr (.inl rfl)
      · split at h
        · cases h
          exact .inr (.inr rfl)
        · split at h <;> cases h
          exact (parseLoop_fault ‹_›).imp (·.mono (by omega) (by omega)) .inr

end Sys2Proof.Machine
end

section
/-! What a command does to memory (10_state.md R34, 20_memory.md R68, 60_exceptions.md R205). -/

namespace Sys2Proof.Machine

variable {s t : State} {o : Operands} {m : Memory} {i : Instr}

/-- Every byte of the range that is not kept becomes a free one. -/
theorem Memory.read_scramble_inside (hm : m.wf) {keep : Nat → Bool} {base seed n a k : Nat} (hk : k < n)
    (ha : (base + k) % Config.addrSpace = a) (hkeep : keep a = false) :
    ∃ d, (m.scramble keep base seed n).read a = Config.freeByte d := by
  induction n with
  | zero => omega
  | succ n ih =>
    simp only [Memory.scramble]
    by_cases hlast : (base + n) % Config.addrSpace = a
    · rw [hlast, hkeep]
      exact ⟨_, Memory.read_write_same (Memory.scramble_wf hm _ _ _ _) _ _⟩
    · have hlt : k < n := by
        rcases Nat.lt_succ_iff_lt_or_eq.1 hk with h | rfl
        · exact h
        · exact absurd ha hlast
      split
      · exact ih hlt
      · rw [Memory.read_write_other _ _ hlast]
        exact ih hlt

/-- `m'` differs from `m` in bytes of [a, a + n) only. -/
def Memory.SameOutside (m m' : Memory) (a n : Nat) : Prop := ∀ b, b < a ∨ a + n ≤ b → m'.read b = m.read b

theorem Memory.SameOutside.trans {m m' m'' : Memory} {a n : Nat} (h : m.SameOutside m' a n)
    (h' : m'.SameOutside m'' a n) : m.SameOutside m'' a n :=
  fun b hb => (h' b hb).trans (h b hb)

theorem Memory.SameOutside.mono {m m' : Memory} {a n b k : Nat} (h : m.SameOutside m' a n) (hl : b ≤ a)
    (hr : a + n ≤ b + k) : m.SameOutside m' b k :=
  fun x hx => h x (by omega)

theorem portWriteBytes_sameOutside {p : Platform} {m m' : Memory} {a : Nat} {vs : List Byte}
    (h : portWriteBytes p m a vs = .ok m') : m.SameOutside m' a vs.length := by
  rw [portWriteBytes_cases h]
  exact fun b hb => Memory.read_writeAll_outside _ _ _ hb

/-! ### What each output writes -/

theorem encodeRange_frame {bits : Bits} (h : encodeRange s o = .ok (bits, m)) :
    ceilDiv bits.length 8 ≤ o.dstCap.toNat ∧ s.mem.SameOutside m o.dstAddr.toNat (ceilDiv bits.length 8) := by
  unfold encodeRange at h
  split at h
  · cases h
  · split at h
    · cases h
    · split at h <;> cases h
      have hw := portWriteBytes_sameOutside ‹_›
      rw [length_pack] at hw
      exact ⟨by omega, hw⟩

theorem serializeRange_frame (h : serializeRange s o = .ok m) :
    serializedLen s o ≤ o.dstCap.toNat ∧ s.mem.SameOutside m o.dstAddr.toNat (serializedLen s o) := by
  unfold serializeRange at h
  split at h
  · cases h
  · refine ⟨by omega, ?_⟩
    split at h
    · cases h
    · split at h
      · cases h
      · have hhead := portWriteBytes_sameOutside ‹portWriteBytes _ s.mem _ _ = _›
        have hseg := portWriteBytes_sameOutside ‹portWriteBytes _ _ (_ + 16) _ = _›
        rw [length_header] at hhead
        have hpayload : Memory.SameOutside _ _ _ _ := fun b hb => portCopy_outside h hb
        unfold serializedLen
        exact (hhead.mono (by omega) (by omega)).trans
          ((hseg.mono (by omega) (by omega)).trans (hpayload.mono (by omega) (by omega)))

theorem writeContainer_frame (h : writeContainer s o = .ok m) :
    containerLen s.tables ≤ o.dstCap.toNat ∧ s.mem.SameOutside m o.dstAddr.toNat (containerLen s.tables) := by
  unfold writeContainer at h
  split at h
  · cases h
  · refine ⟨by omega, ?_⟩
    split at h
    · cases h
    · split at h
      · cases h
      · split at h
        · cases h
        · have hhead := portWriteBytes_sameOutside ‹portWriteBytes _ s.mem _ _ = _›
          have hseg := portWriteBytes_sameOutside ‹portWriteBytes _ _ (_ + 16) (segBytes _) = _›
          have hpayload := portWriteBytes_sameOutside h
          rw [length_header] at hhead
          rw [List.length_take] at hpayload
          unfold containerLen
          exact (hhead.mono (by omega) (by omega)).trans
            ((hseg.mono (by omega) (by omega)).trans (hpayload.mono (by omega) (by omega)))

theorem decodeStream_sameOutside {p : Platform} {dt : List DtEntry} {j : DecodeJob} {m' : Memory}
    (h : decodeStream p dt j m = .ok m') : j.orig ≤ j.cap ∧ m.SameOutside m' j.dst j.orig := by
  refine ⟨(decodeStream_frame h).1, ?_⟩
  unfold decodeStream at h
  split at h
  · cases h
  · split at h
    · cases h
      exact fun _ _ => rfl
    · split at h
      · cases h
      · exact (decodeLoop_frame h).1

/-! ### The codes of the rules -/

/-- The codes a command's rule ends with when it raises (R200): neither success-class nor a pre-check's. -/
def ruleCodes : List Code :=
  [.ioError, .missingCode, .truncatedFile, .malformedTable, .malformedStream, .capacityExceeded]

section
variable {p : Platform} {e : Raise}

theorem ReadFault.mem_ruleCodes {a n : Nat} (h : ReadFault p a n e) : e.code ∈ ruleCodes := by simp [ruleCodes, h.code]

theorem WriteFault.mem_ruleCodes {a n : Nat} (h : WriteFault p a n e) : e.code ∈ ruleCodes := by
  simp [ruleCodes, h.code]

theorem readSource_code (h : readSource s o = .error e) : e.code ∈ ruleCodes := (portReadBytes_fault h).mem_ruleCodes

theorem encodeRange_code (h : encodeRange s o = .error e) : e.code ∈ ruleCodes := by
  obtain h | h | h | h := encodeRange_fault h
  · exact h.mem_ruleCodes
  · exact h.mem_ruleCodes
  · simp [ruleCodes, h]
  · simp [ruleCodes, h]

theorem serializeRange_code (h : serializeRange s o = .error e) : e.code ∈ ruleCodes := by
  obtain h | h | h := serializeRange_fault h
  · exact h.mem_ruleCodes
  · exact h.mem_ruleCodes
  · simp [ruleCodes, h]

theorem writeContainer_code (h : writeContainer s o = .error e)
    (hr : Readable s.platform o.srcAddr.toNat o.srcLen.toNat) : e.code ∈ ruleCodes := by
  obtain h | h | h := writeContainer_fault h hr
  · exact h.mem_ruleCodes
  · simp [ruleCodes, h]
  · simp [ruleCodes, h]

theorem decodeStream_code {dt : List DtEntry} {j : DecodeJob} (h : decodeStream p dt j m = .error e) :
    e.code ∈ ruleCodes := by
  obtain h | h | h | h := decodeStream_fault h
  · exact h.mem_ruleCodes
  · exact h.mem_ruleCodes
  · simp [ruleCodes, h]
  · simp [ruleCodes, h]

theorem parseContainer_code {src len : Nat} (h : parseContainer p m src len = .error e) : e.code ∈ ruleCodes := by
  obtain h | h | h := parseContainer_fault h
  · exact h.mem_ruleCodes
  · simp [ruleCodes, h]
  · simp [ruleCodes, h]

end

/-! ### The outcomes of a command for memory -/

/-- What a command leaves of memory: all of it, an output at the start of its destination range, or a destination range
of free bytes. -/
inductive MemoryOutcome (i : Instr) (s t : State) : Prop
  | kept (hmem : t.mem = s.mem)
      (hcode : usesDst i = true → t.code ∈ [Code.ok, .emptyInput, .badArgument, .sequenceError])
  | written (hdst : usesDst i = true) (hpre : precheck i s.flags s.operands = none) (hcode : t.code = .ok)
      (hcap : t.res.resultLen.toNat ≤ s.operands.dstCap.toNat)
      (hframe : s.mem.SameOutside t.mem s.operands.dstAddr.toNat t.res.resultLen.toNat)
  | opened (hdst : usesDst i = true) (hpre : precheck i s.flags s.operands = none) (hcode : t.code ∈ ruleCodes)
      (hmem : t.mem = (s.openDst s.operands).mem)

theorem usesDst_iff : usesDst i = true ↔ i ∈ [Instr.encode, .decode, .serialize, .compress, .decompress] := by
  cases i <;> decide

theorem usesDst_eq_false_iff :
    usesDst i = false ↔ i ∈ [Instr.nop, .count, .buildTree, .buildTable, .deserialize, .clear] := by
  cases i <;> decide

theorem usesSrc_of_usesDst (h : usesDst i = true) : usesSrc i = true := by
  revert h
  cases i <;> decide

theorem memoryOutcome_precheck {e : Raise} (h : precheck i s.flags s.operands = some e) :
    MemoryOutcome i s (s.raise e) := by
  refine .kept rfl fun _ => ?_
  obtain ⟨h | h, -⟩ := precheck_code h <;> simp [h]

theorem memoryOutcome_written {u : State} {n : Nat} (hdst : usesDst i = true)
    (hpre : precheck i s.flags s.operands = none) (hcap : n ≤ s.operands.dstCap.toNat)
    (hframe : s.mem.SameOutside u.mem s.operands.dstAddr.toNat n) : MemoryOutcome i s (u.complete .ok 0 0 n) := by
  have hlen : (BitVec.ofNat 64 n).toNat = n := by
    rw [BitVec.toNat_ofNat, Nat.mod_eq_of_lt (Nat.lt_of_le_of_lt hcap s.operands.dstCap.isLt)]
  exact .written hdst hpre rfl (by simpa [hlen] using hcap) (by simpa [hlen] using hframe)

theorem exec_memory (h : exec i s = .next t) : MemoryOutcome i s t := by
  cases i with
  | nop =>
    obtain rfl := execNop_cases h
    exact .kept rfl (by simp [usesDst])
  | count =>
    obtain ⟨e, -, rfl⟩ | ⟨-, ⟨bs, -, rfl⟩ | ⟨e, -, rfl⟩⟩ := execCount_cases h <;> exact .kept rfl (by simp [usesDst])
  | buildTree =>
    obtain ⟨e, -, rfl⟩ | ⟨-, ⟨-, rfl⟩ | ⟨-, rfl⟩⟩ := execBuildTree_cases h <;> exact .kept rfl (by simp [usesDst])
  | buildTable =>
    obtain ⟨e, -, rfl⟩ | ⟨-, rfl⟩ := execBuildTable_cases h <;> exact .kept rfl (by simp [usesDst])
  | encode =>
    obtain ⟨e, he, rfl⟩ | ⟨hp, ⟨bits, m, hm, rfl⟩ | ⟨e, he, rfl⟩⟩ := execEncode_cases h
    · exact memoryOutcome_precheck he
    · obtain ⟨hcap, hframe⟩ := encodeRange_frame hm
      exact memoryOutcome_written rfl hp hcap hframe
    · exact .opened rfl hp (encodeRange_code he) rfl
  | decode =>
    obtain ⟨e, he, rfl⟩ | ⟨hp, ⟨m, hm, rfl⟩ | ⟨e, he, rfl⟩⟩ := execDecode_cases h
    · exact memoryOutcome_precheck he
    · obtain ⟨hcap, hframe⟩ := decodeStream_sameOutside hm
      exact memoryOutcome_written rfl hp hcap hframe
    · exact .opened rfl hp (decodeStream_code he) rfl
  | serialize =>
    obtain ⟨e, he, rfl⟩ | ⟨hp, ⟨m, hm, rfl⟩ | ⟨e, he, rfl⟩⟩ := execSerialize_cases h
    · exact memoryOutcome_precheck he
    · obtain ⟨hcap, hframe⟩ := serializeRange_frame hm
      exact memoryOutcome_written rfl hp hcap hframe
    · exact .opened rfl hp (serializeRange_code he) rfl
  | deserialize =>
    obtain ⟨e, -, rfl⟩ | ⟨-, ⟨c, -, rfl⟩ | ⟨e, -, rfl⟩⟩ := execDeserialize_cases h <;>
      exact .kept rfl (by simp [usesDst])
  | compress =>
    obtain ⟨e, he, rfl⟩ | ⟨hp, ⟨e, he, rfl⟩ | ⟨bs, hbs, ⟨-, rfl⟩ | ⟨-, rfl⟩⟩⟩ := execCompress_cases h
    · exact memoryOutcome_precheck he
    · exact .opened rfl hp (readSource_code he) rfl
    · exact .kept rfl (by simp)
    · obtain ⟨m, hm, ht⟩ | ⟨e, he, ht⟩ := compressTail_cases ((s.storeCounts bs).storeTree.storeCodes) s.operands <;>
        rw [ht]
      · obtain ⟨hcap, hframe⟩ := writeContainer_frame hm
        exact memoryOutcome_written rfl hp hcap hframe
      · exact .opened rfl hp (writeContainer_code he (readable_of_portReadBytes hbs)) rfl
  | decompress =>
    obtain ⟨e, he, rfl⟩ | ⟨hp, ⟨e, he, rfl⟩ | ⟨c, -, ⟨e, he, rfl⟩ | ⟨m, hm, rfl⟩⟩⟩ := execDecompress_cases h
    · exact memoryOutcome_precheck he
    · exact .opened rfl hp (parseContainer_code he) rfl
    · exact .opened rfl hp (decodeStream_code he) rfl
    · obtain ⟨hcap, hframe⟩ := decodeStream_sameOutside hm
      exact memoryOutcome_written rfl hp hcap hframe
  | clear =>
    obtain rfl := execClear_cases h
    exact .kept rfl (by simp [usesDst])

/-- Whatever the outcome, only bytes of the destination range of a command that has one can change. -/
theorem MemoryOutcome.sameOutside (h : MemoryOutcome i s t) :
    t.mem = s.mem ∨
    usesDst i = true ∧ precheck i s.flags s.operands = none ∧
      s.mem.SameOutside t.mem s.operands.dstAddr.toNat s.operands.dstCap.toNat := by
  cases h with
  | kept hmem _ => exact .inl hmem
  | written hdst hpre _ hcap hframe => exact .inr ⟨hdst, hpre, hframe.mono (Nat.le_refl _) (by omega)⟩
  | opened hdst hpre _ hmem =>
    exact .inr ⟨hdst, hpre, fun a ha => hmem ▸ openDst_dstOnly s ((precheck_eq_none.1 hpre).2.1 hdst).2 a ha⟩

/-- Settles O21: each clause for each of the three outcomes; a source byte lies outside the destination range (R207). -/
theorem commandsWriteOnlyTheirDestination : Obligations.CommandsWriteOnlyTheirDestination := by
  intro i s t h
  have hout := exec_memory h
  have hsame := hout.sameOutside
  refine ⟨fun hi => ?_, fun hc => ?_, fun a ha => ?_, fun hc a ha => ?_, fun a hlo hhi => ?_,
    fun hm hi hc a hlo hhi => ?_⟩
  · obtain hmem | ⟨hdst, -⟩ := hsame
    · exact hmem
    · cases (usesDst_eq_false_iff.2 hi).symm.trans hdst
  · cases hout with
    | kept hmem _ => exact hmem
    | written _ _ hok _ _ => simp [hok] at hc
    | opened _ _ hcode _ => obtain h | h | h := hc <;> simp [h, ruleCodes] at hcode
  · obtain hmem | ⟨-, -, hframe⟩ := hsame
    · rw [hmem]
    · exact hframe a ha
  · cases hout with
    | kept hmem _ => rw [hmem]
    | written _ _ _ _ hframe => exact hframe a ha
    | opened _ _ hcode _ => simp [hc, ruleCodes] at hcode
  · obtain hmem | ⟨hdst, hpre, hframe⟩ := hsame
    · rw [hmem]
    · obtain ⟨-, -, hapart, -⟩ := precheck_eq_none.1 hpre
      have := hapart (usesSrc_of_usesDst hdst) hdst
      exact hframe a (by unfold Apart at this; omega)
  · have hdst := usesDst_iff.2 hi
    cases hout with
    | kept _ hcode => exact absurd (hcode hdst) hc
    | written _ _ hok _ _ => simp [hok] at hc
    | opened _ hpre _ hmem =>
      have hrange := ((precheck_eq_none.1 hpre).2.1 hdst).2
      rw [hmem]
      refine Memory.read_scramble_inside hm (k := a - s.operands.dstAddr.toNat) (by omega) ?_ rfl
      rw [Nat.mod_eq_of_lt (by simp only [Config.addrSpace]; omega)]
      omega

end Sys2Proof.Machine
end

section
/-! The frame of a completion (10_state.md R34, R38, R52), the validity flags (R48), and who writes which table and
result (R33, R35-R37, R44-R47). -/

namespace Sys2Proof.Machine

variable {s t u : State} {i : Instr} {e : Raise}

/-! ### Staged registers and error registers -/

/-- What a completion does to the staged registers and the error registers, by its code (R34, R38, R206). -/
def State.StagedFrame (s t : State) : Prop :=
  t.cfg = { s.cfg with origLen := t.cfg.origLen } ∧
  (t.code ≠ .ok → t.cfg = s.cfg ∧
    t.res = { s.res with resultLen := 0#64, errAddr := t.res.errAddr, errInfo := t.res.errInfo }) ∧
  (t.code = .ok ∨ t.code = .emptyInput → t.res.errAddr = 0#64 ∧ t.res.errInfo = 0#64)

theorem stagedFrame_ok {n : Nat} (h : u.cfg = { s.cfg with origLen := u.cfg.origLen }) :
    s.StagedFrame (u.complete .ok 0 0 n) :=
  ⟨h, fun hne => absurd rfl hne, fun _ => ⟨rfl, rfl⟩⟩

theorem stagedFrame_emptyInput (hcfg : u.cfg = s.cfg) (hres : u.res = s.res) :
    s.StagedFrame (u.complete .emptyInput 0 0 0) :=
  ⟨by simp [hcfg], fun _ => ⟨hcfg, by simp [hres]⟩, fun _ => ⟨rfl, rfl⟩⟩

theorem stagedFrame_raise (hcfg : u.cfg = s.cfg) (hres : u.res = s.res) (he : e.code ≠ .ok ∧ e.code ≠ .emptyInput) :
    s.StagedFrame (u.raise e) :=
  ⟨by simp [hcfg], fun _ => ⟨hcfg, by simp [hres]⟩, fun h => absurd h (by simp [he])⟩

theorem not_success_of_mem_ruleCodes {c : Code} (h : c ∈ ruleCodes) : c ≠ .ok ∧ c ≠ .emptyInput := by
  revert c
  decide

theorem stagedFrame_precheck (h : precheck i s.flags s.operands = some e) : s.StagedFrame (s.raise e) := by
  refine stagedFrame_raise rfl rfl ?_
  obtain ⟨h | h, -⟩ := precheck_code h <;> simp [h]

theorem stagedFrame_error (hcfg : u.cfg = s.cfg) (hres : u.res = s.res) (he : e.code ∈ ruleCodes) :
    s.StagedFrame (u.raise e) :=
  stagedFrame_raise hcfg hres (not_success_of_mem_ruleCodes he)

theorem exec_stagedFrame (h : exec i s = .next t) : s.StagedFrame t := by
  cases i with
  | nop =>
    obtain rfl := execNop_cases h
    exact stagedFrame_ok rfl
  | count =>
    obtain ⟨e, he, rfl⟩ | ⟨-, ⟨bs, -, rfl⟩ | ⟨e, he, rfl⟩⟩ := execCount_cases h
    · exact stagedFrame_precheck he
    · exact stagedFrame_ok rfl
    · exact stagedFrame_error rfl rfl (readSource_code he)
  | buildTree =>
    obtain ⟨e, he, rfl⟩ | ⟨-, ⟨-, rfl⟩ | ⟨-, rfl⟩⟩ := execBuildTree_cases h
    · exact stagedFrame_precheck he
    · exact stagedFrame_emptyInput rfl rfl
    · exact stagedFrame_ok rfl
  | buildTable =>
    obtain ⟨e, he, rfl⟩ | ⟨-, rfl⟩ := execBuildTable_cases h
    · exact stagedFrame_precheck he
    · exact stagedFrame_ok rfl
  | encode =>
    obtain ⟨e, he, rfl⟩ | ⟨-, ⟨bits, m, -, rfl⟩ | ⟨e, he, rfl⟩⟩ := execEncode_cases h
    · exact stagedFrame_precheck he
    · exact stagedFrame_ok rfl
    · exact stagedFrame_error (u := s.openDst _) rfl rfl (encodeRange_code he)
  | decode =>
    obtain ⟨e, he, rfl⟩ | ⟨-, ⟨m, -, rfl⟩ | ⟨e, he, rfl⟩⟩ := execDecode_cases h
    · exact stagedFrame_precheck he
    · exact stagedFrame_ok rfl
    · exact stagedFrame_error (u := s.openDst _) rfl rfl (decodeStream_code he)
  | serialize =>
    obtain ⟨e, he, rfl⟩ | ⟨-, ⟨m, -, rfl⟩ | ⟨e, he, rfl⟩⟩ := execSerialize_cases h
    · exact stagedFrame_precheck he
    · exact stagedFrame_ok rfl
    · exact stagedFrame_error (u := s.openDst _) rfl rfl (serializeRange_code he)
  | deserialize =>
    obtain ⟨e, he, rfl⟩ | ⟨-, ⟨c, -, rfl⟩ | ⟨e, he, rfl⟩⟩ := execDeserialize_cases h
    · exact stagedFrame_precheck he
    · exact stagedFrame_ok rfl
    · exact stagedFrame_error rfl rfl (parseContainer_code he)
  | compress =>
    obtain ⟨e, he, rfl⟩ | ⟨-, ⟨e, he, rfl⟩ | ⟨bs, hbs, ⟨-, rfl⟩ | ⟨-, rfl⟩⟩⟩ := execCompress_cases h
    · exact stagedFrame_precheck he
    · exact stagedFrame_error (u := s.dropCounts.openDst _) rfl rfl (readSource_code he)
    · exact stagedFrame_emptyInput rfl rfl
    · obtain ⟨m, -, ht⟩ | ⟨e, he, ht⟩ := compressTail_cases ((s.storeCounts bs).storeTree.storeCodes) s.operands <;>
        rw [ht]
      · exact stagedFrame_ok rfl
      · exact stagedFrame_error (u := State.openDst _ _) rfl rfl
          (writeContainer_code he (readable_of_portReadBytes hbs))
  | decompress =>
    obtain ⟨e, he, rfl⟩ | ⟨-, ⟨e, he, rfl⟩ | ⟨c, -, ⟨e, he, rfl⟩ | ⟨m, -, rfl⟩⟩⟩ := execDecompress_cases h
    · exact stagedFrame_precheck he
    · exact stagedFrame_error (u := s.dropDt.openDst _) rfl rfl (parseContainer_code he)
    · exact stagedFrame_error (u := (s.storeDt _).openDst _) rfl rfl (decodeStream_code he)
    · exact stagedFrame_ok rfl
  | clear =>
    obtain rfl := execClear_cases h
    exact stagedFrame_ok rfl

/-- Settles O19: a completion (R52) after writes of the stages, and the staged registers by code. -/
theorem everyCommandCompletesWithThisFrame : Obligations.EveryCommandCompletesWithThisFrame := by
  intro i s
  obtain ⟨t, h, hc⟩ := exec_completes i s
  obtain ⟨hcfg, hkept, herr⟩ := exec_stagedFrame h
  obtain ⟨u, code, addr, info, len, rfl, hu⟩ := hc
  exact ⟨_, h, rfl, rfl, (congrArg State.irqEn hu :), (congrArg State.drop hu :), (congrArg State.lastOp hu :),
    (congrArg State.platform hu :), (congrArg State.inputs hu :), (congrArg State.hostData hu :),
    (congrArg (fun u => u.engine.toList ++ u.unseen) hu :), hcfg, hkept, herr⟩

/-! ### Tables and results -/

/-- Settles O24: by the writes of each command's stages. -/
theorem tablesAndResultsWrittenOnlyByTheirCommands : Obligations.TablesAndResultsWrittenOnlyByTheirCommands := by
  intro i s t h
  cases i with
  | nop =>
    obtain rfl := execNop_cases h
    simp
  | count => obtain ⟨e, -, rfl⟩ | ⟨-, ⟨bs, -, rfl⟩ | ⟨e, -, rfl⟩⟩ := execCount_cases h <;> simp
  | buildTree => obtain ⟨e, -, rfl⟩ | ⟨-, ⟨-, rfl⟩ | ⟨-, rfl⟩⟩ := execBuildTree_cases h <;> simp
  | buildTable => obtain ⟨e, -, rfl⟩ | ⟨-, rfl⟩ := execBuildTable_cases h <;> simp
  | encode => obtain ⟨e, -, rfl⟩ | ⟨-, ⟨bits, m, -, rfl⟩ | ⟨e, -, rfl⟩⟩ := execEncode_cases h <;> simp
  | decode => obtain ⟨e, -, rfl⟩ | ⟨-, ⟨m, -, rfl⟩ | ⟨e, -, rfl⟩⟩ := execDecode_cases h <;> simp
  | serialize => obtain ⟨e, -, rfl⟩ | ⟨-, ⟨m, -, rfl⟩ | ⟨e, -, rfl⟩⟩ := execSerialize_cases h <;> simp
  | deserialize => obtain ⟨e, -, rfl⟩ | ⟨-, ⟨c, -, rfl⟩ | ⟨e, -, rfl⟩⟩ := execDeserialize_cases h <;> simp
  | compress =>
    obtain ⟨e, -, rfl⟩ | ⟨-, ⟨e, -, rfl⟩ | ⟨bs, -, ⟨-, rfl⟩ | ⟨-, rfl⟩⟩⟩ := execCompress_cases h
    · simp
    · simp
    · simp
    · obtain ⟨m, -, ht⟩ | ⟨e, -, ht⟩ := compressTail_cases ((s.storeCounts bs).storeTree.storeCodes) s.operands <;>
        simp [ht]
  | decompress =>
    obtain ⟨e, -, rfl⟩ | ⟨-, ⟨e, -, rfl⟩ | ⟨c, -, ⟨e, -, rfl⟩ | ⟨m, -, rfl⟩⟩⟩ := execDecompress_cases h <;> simp
  | clear =>
    obtain rfl := execClear_cases h
    simp

/-! ### The validity flags -/

theorem precheck_nop (f : Flags) (o : Operands) : precheck .nop f o = none := by
  simp [precheck, usesSrc, usesDst, checkFlag, needsFlag]

theorem precheck_clear (f : Flags) (o : Operands) : precheck .clear f o = none := by
  simp [precheck, usesSrc, usesDst, checkFlag, needsFlag]

/-- A command ends by a pre-check error, or its pre-checks pass. -/
theorem exec_precheck_cases (h : exec i s = .next t) :
    (∃ e, precheck i s.flags s.operands = some e ∧ t = s.raise e) ∨ precheck i s.flags s.operands = none := by
  cases i with
  | nop => exact .inr (precheck_nop _ _)
  | count => exact (execCount_cases h).imp_right And.left
  | buildTree => exact (execBuildTree_cases h).imp_right And.left
  | buildTable => exact (execBuildTable_cases h).imp_right And.left
  | encode => exact (execEncode_cases h).imp_right And.left
  | decode => exact (execDecode_cases h).imp_right And.left
  | serialize => exact (execSerialize_cases h).imp_right And.left
  | deserialize => exact (execDeserialize_cases h).imp_right And.left
  | compress => exact (execCompress_cases h).imp_right And.left
  | decompress => exact (execDecompress_cases h).imp_right And.left
  | clear => exact .inr (precheck_clear _ _)

/-- Settles O23: the flag writes of the stages that ran, told apart by the code and by where a failing access lies. -/
theorem validityFlagTransitions : Obligations.ValidityFlagTransitions := by
  intro i s t h
  obtain ⟨e, he, rfl⟩ | hp := exec_precheck_cases h
  · have hi : i ≠ .clear := by
      rintro rfl
      simp [precheck_clear] at he
    obtain ⟨hc | hc, -⟩ := precheck_code he <;> simp [hc, hi]
  cases i with
  | nop =>
    obtain rfl := execNop_cases h
    simp
  | count =>
    obtain ⟨-, ⟨bs, -, rfl⟩ | ⟨e, he, rfl⟩⟩ := (execCount_cases h).resolve_left (by simp [hp])
    · simp
    · obtain ⟨x, rfl, -⟩ := portReadBytes_fault he
      simp
  | buildTree =>
    obtain ⟨-, ⟨-, rfl⟩ | ⟨-, rfl⟩⟩ := (execBuildTree_cases h).resolve_left (by simp [hp]) <;> simp
  | buildTable =>
    obtain ⟨-, rfl⟩ := (execBuildTable_cases h).resolve_left (by simp [hp])
    simp
  | encode =>
    obtain ⟨-, ⟨bits, m, -, rfl⟩ | ⟨e, -, rfl⟩⟩ := (execEncode_cases h).resolve_left (by simp [hp]) <;> simp
  | decode =>
    obtain ⟨-, ⟨m, -, rfl⟩ | ⟨e, -, rfl⟩⟩ := (execDecode_cases h).resolve_left (by simp [hp]) <;> simp
  | serialize =>
    obtain ⟨-, ⟨m, -, rfl⟩ | ⟨e, -, rfl⟩⟩ := (execSerialize_cases h).resolve_left (by simp [hp]) <;> simp
  | deserialize =>
    obtain ⟨-, ⟨c, -, rfl⟩ | ⟨e, he, rfl⟩⟩ := (execDeserialize_cases h).resolve_left (by simp [hp])
    · simp
    · obtain ⟨x, rfl, -⟩ | hc | hc := parseContainer_fault he
      · simp
      · simp [hc]
      · simp [hc]
  | compress =>
    obtain ⟨-, ⟨e, he, rfl⟩ | ⟨bs, hbs, ⟨-, rfl⟩ | ⟨-, rfl⟩⟩⟩ := (execCompress_cases h).resolve_left (by simp [hp])
    · obtain ⟨x, rfl, -⟩ := portReadBytes_fault he
      simp
    · simp
    · obtain ⟨m, -, ht⟩ | ⟨e, he, ht⟩ := compressTail_cases ((s.storeCounts bs).storeTree.storeCodes) s.operands
      · simp [ht]
      · obtain ⟨x, rfl, -⟩ | hc | hc := writeContainer_fault he (readable_of_portReadBytes hbs)
        · simp [ht]
        · simp [ht, hc]
        · simp [ht, hc]
  | decompress =>
    obtain ⟨-, ⟨e, he, rfl⟩ | ⟨c, hcont, ⟨e, he, rfl⟩ | ⟨m, -, rfl⟩⟩⟩ :=
      (execDecompress_cases h).resolve_left (by simp [hp])
    · obtain ⟨x, rfl, hlo, hhi, -⟩ | hc | hc := parseContainer_fault he
      · have hbelow : x % 2 ^ 64 < s.operands.srcAddr.toNat + 16 + segLenAt s.mem s.operands.srcAddr.toNat :=
          Nat.lt_of_le_of_lt (Nat.mod_le _ _) (by omega)
        simpa [segLenAt] using hbelow
      · simp [hc]
      · simp [hc]
    · obtain ⟨x, rfl, hlo, hhi, -⟩ | ⟨x, rfl, -⟩ | hc | hc := decodeStream_fault he
      · obtain ⟨hseg, hlen⟩ := parseContainer_segLen hcont
        have hsrc := ((precheck_eq_none.1 hp).1 rfl).2
        simp only [Operands.payloadJob, hseg] at hlo hhi hlen
        have hpast : s.operands.srcAddr.toNat + 16 + segLenAt s.mem s.operands.srcAddr.toNat ≤ x % 2 ^ 64 := by
          rw [Nat.mod_eq_of_lt (by omega)]
          exact hlo
        simpa [segLenAt] using hpast
      · simp
      · simp [hc]
      · simp [hc]
    · simp
  | clear =>
    obtain rfl := execClear_cases h
    simp [Flags.cleared]

end Sys2Proof.Machine
end

section
/-! Every step keeps memory in canonical form (20_memory.md R60, R62, R69): each output lies inside a destination range
that passed its pre-checks, so below the top of memory. -/

namespace Sys2Proof.Machine

variable {s t : State} {o : Operands} {m m' : Memory} {i : Instr}

theorem portWriteBytes_wf {p : Platform} {a : Nat} {vs : List Byte} (hm : m.wf)
    (h : portWriteBytes p m a vs = .ok m') (ha : a + vs.length ≤ Config.addrSpace) : m'.wf :=
  portWriteBytes_cases h ▸ Memory.writeAll_wf hm ha

section
variable (hm : s.mem.wf) (hd : o.dstAddr.toNat + o.dstCap.toNat ≤ Config.addrSpace)
include hm hd

theorem encodeRange_wf {bits : Bits} (h : encodeRange s o = .ok (bits, m)) : m.wf := by
  unfold encodeRange at h
  split at h
  · cases h
  · split at h
    · cases h
    · split at h <;> cases h
      exact portWriteBytes_wf hm ‹_› (by rw [length_pack]; omega)

theorem serializeRange_wf (h : serializeRange s o = .ok m) : m.wf := by
  unfold serializeRange at h
  split at h
  · cases h
  · rename_i hcap
    simp only [serializedLen] at hcap
    split at h
    · cases h
    · have hhead := portWriteBytes_wf hm ‹_› (by rw [length_header]; omega)
      split at h
      · cases h
      · have hseg := portWriteBytes_wf hhead ‹_› (by omega)
        exact portCopy_wf hseg h (by omega)

theorem writeContainer_wf (h : writeContainer s o = .ok m) : m.wf := by
  unfold writeContainer at h
  split at h
  · cases h
  · rename_i hcap
    simp only [containerLen] at hcap
    split at h
    · cases h
    · have hhead := portWriteBytes_wf hm ‹_› (by rw [length_header]; omega)
      split at h
      · cases h
      · have hseg := portWriteBytes_wf hhead ‹_› (by omega)
        split at h
        · cases h
        · exact portWriteBytes_wf hseg h (by rw [List.length_take]; omega)

end

theorem raiseOpen_wf (hm : s.mem.wf) (o : Operands) (e : Raise) : (s.raiseOpen o e).mem.wf :=
  Memory.scramble_wf hm _ _ _ _

/-- A command leaves memory alone, opens its destination range, or writes inside it where the pre-checks passed. -/
theorem exec_mem_wf (hm : s.mem.wf) (h : exec i s = .next t) : t.mem.wf := by
  have hdst (hp : precheck i s.flags s.operands = none) (hi : usesDst i = true) :
      s.operands.dstAddr.toNat + s.operands.dstCap.toNat ≤ Config.addrSpace := ((precheck_eq_none.1 hp).2.1 hi).2
  by_cases hi : usesDst i = false
  · exact ((exec_memory h).sameOutside.resolve_right (by simp [hi])) ▸ hm
  cases i with
  | encode =>
    obtain ⟨e, -, rfl⟩ | ⟨hp, ⟨bits, m, hw, rfl⟩ | ⟨e, -, rfl⟩⟩ := execEncode_cases h
    · exact hm
    · exact encodeRange_wf hm (hdst hp rfl) hw
    · exact raiseOpen_wf hm _ e
  | decode =>
    obtain ⟨e, -, rfl⟩ | ⟨hp, ⟨m, hw, rfl⟩ | ⟨e, -, rfl⟩⟩ := execDecode_cases h
    · exact hm
    · exact (decodeStream_frame hw).2.2 hm (hdst hp rfl)
    · exact raiseOpen_wf hm _ e
  | serialize =>
    obtain ⟨e, -, rfl⟩ | ⟨hp, ⟨m, hw, rfl⟩ | ⟨e, -, rfl⟩⟩ := execSerialize_cases h
    · exact hm
    · exact serializeRange_wf hm (hdst hp rfl) hw
    · exact raiseOpen_wf hm _ e
  | compress =>
    obtain ⟨e, -, rfl⟩ | ⟨hp, ⟨e, -, rfl⟩ | ⟨bs, -, ⟨-, rfl⟩ | ⟨-, rfl⟩⟩⟩ := execCompress_cases h
    · exact hm
    · exact raiseOpen_wf (s := s.dropCounts) hm _ e
    · exact hm
    · obtain ⟨m, hw, ht⟩ | ⟨e, -, ht⟩ := compressTail_cases ((s.storeCounts bs).storeTree.storeCodes) s.operands <;>
        rw [ht]
      · exact writeContainer_wf (s := (s.storeCounts bs).storeTree.storeCodes) hm (hdst hp rfl) hw
      · exact raiseOpen_wf (s := (s.storeCounts bs).storeTree.storeCodes) hm _ e
  | decompress =>
    obtain ⟨e, -, rfl⟩ | ⟨hp, ⟨e, -, rfl⟩ | ⟨c, -, ⟨e, -, rfl⟩ | ⟨m, hw, rfl⟩⟩⟩ := execDecompress_cases h
    · exact hm
    · exact raiseOpen_wf (s := s.dropDt) hm _ e
    · exact raiseOpen_wf (s := s.storeDt c.entries) hm _ e
    · exact (decodeStream_frame hw).2.2 hm (hdst hp rfl)
  | nop | count | buildTree | buildTable | deserialize | clear => exact absurd rfl hi

theorem engineTurn_mem_wf (hm : s.mem.wf) (h : engineTurn s = .next t) : t.mem.wf := by
  obtain ⟨-, rfl⟩ | ⟨c, i, -, -, h⟩ | ⟨c, r, -, -, rfl⟩ := engineTurn_cases h
  · exact hm
  · exact exec_mem_wf hm h
  · exact hm

theorem writeReg_mem (s : State) (r : Reg) (v : Word) : (s.writeReg r v).mem = s.mem := by
  obtain ⟨-, -, h⟩ | h | h | ⟨-, cfg, h⟩ | ⟨-, h⟩ | h := writeReg_cases s r v <;> rw [h] <;> rfl

theorem abandon_mem_wf (hm : s.mem.wf) (c : Latched) : (s.abandon c).mem.wf := by
  obtain h | ⟨i, -, -, h⟩ := abandon_cases s c <;> rw [h]
  · exact hm
  · exact Memory.scramble_wf hm _ _ _ _

theorem applyReset_mem_wf (hm : s.mem.wf) : s.applyReset.mem.wf := by
  unfold State.applyReset
  split
  · exact hm
  · exact abandon_mem_wf hm _

theorem act_mem_wf {i : Input} (hm : s.mem.wf) (h : act s i = .next t) : t.mem.wf := by
  obtain ⟨-, h⟩ | ⟨a, n, v, -, rfl | ⟨r, rfl⟩⟩ | ⟨a, n, -, d, u, k, rfl⟩ | ⟨a, v, -, -, rfl⟩ | ⟨a, -, d, k, rfl⟩ |
    ⟨-, rfl⟩ | ⟨fs, -, rfl⟩ := act_cases h
  · exact engineTurn_mem_wf hm h
  · exact hm
  · exact (writeReg_mem s r v).symm ▸ hm
  · exact hm
  · exact Memory.write_wf hm a.isLt v
  · exact hm
  · exact applyReset_mem_wf hm
  · exact hm

/-- Settles O55: one input at a time; the engine, a host write and a reset are the only ones to touch memory. -/
theorem stepKeepsMemoryCanonical : Obligations.StepKeepsMemoryCanonical := by
  intro s t hm h
  obtain ⟨l, i, ha⟩ := step_is_act h
  exact act_mem_wf (s := { s with inputs := l }) hm ha

end Sys2Proof.Machine
end

section
/-! The host's own accesses (20_memory.md R65, R71, R72; 70_reset_and_hazards.md R236): the width and alignment of a
register access, and what a write or a read of a command's buffers does. -/

namespace Sys2Proof.Machine

variable {s : State} {c : Latched} {i : Instr} {a : Nat}

/-! ### Register accesses -/

theorem accessOk_iff {off bytes : Nat} : accessOk off bytes = true ↔ bytes = 8 ∧ off % 8 = 0 := by simp [accessOk]

theorem hostWrite_inside {addr : Word} (h : s.busOffset addr < Config.regSpace) (bytes : Nat) (v : Word) :
    hostWrite s addr bytes v =
      if accessOk (s.busOffset addr) bytes then .next (s.writeReg (.ofOffset (s.busOffset addr)) v)
      else .refused .refusedAccess := by
  rw [hostWrite, if_neg (Nat.not_le.2 h)]

theorem hostRead_inside {addr : Word} (h : s.busOffset addr < Config.regSpace) (bytes : Nat) :
    hostRead s addr bytes =
      if accessOk (s.busOffset addr) bytes then .next (s.hostReadReg (.ofOffset (s.busOffset addr)))
      else .refused .refusedAccess := by
  rw [hostRead, if_neg (Nat.not_le.2 h)]

/-- A step that takes an input is that input's action. -/
theorem step_cons {j : Input} {rest : List Input} (h : s.inputs = j :: rest) :
    step s = act { s with inputs := rest } j := by rw [step, h]

/-- Settles O13: inside the register file a write and a read ask the same of width and offset. -/
theorem registerAccessesAre64BitsAligned : Obligations.RegisterAccessesAre64BitsAligned := by
  intro s addr bytes v rest hlt hin
  obtain ⟨t, hstep⟩ : ∃ t : State, step s =
      if accessOk (addr - s.platform.regBase).toNat bytes then .next t else .refused .refusedAccess := by
    obtain hin | hin := hin
    · exact ⟨_, (step_cons hin).trans (hostWrite_inside (s := { s with inputs := rest }) hlt bytes v)⟩
    · exact ⟨_, (step_cons hin).trans (hostRead_inside (s := { s with inputs := rest }) hlt bytes)⟩
  rw [hstep]
  refine ⟨fun hb h8 => ⟨t, if_pos (accessOk_iff.2 ⟨hb, h8⟩)⟩, fun hbad => if_neg fun hok => ?_⟩
  obtain ⟨hb, h8⟩ := accessOk_iff.1 hok
  exact hbad.elim (· hb) (· h8)

/-! ### The ranges a command uses -/

theorem usesSrc_iff : usesSrc i = true ↔
    i ∈ [Instr.count, .encode, .decode, .serialize, .deserialize, .compress, .decompress] := by
  cases i <;> decide

theorem Latched.inSrc_of_decode (h : decode c.word = .ok i) (a : Nat) :
    c.inSrc a = (usesSrc i && inRange c.ops.srcAddr c.ops.srcLen a) := by simp [Latched.inSrc, h]

theorem Latched.inDst_of_decode (h : decode c.word = .ok i) (a : Nat) :
    c.inDst a = (usesDst i && inRange c.ops.dstAddr c.ops.dstCap a) := by simp [Latched.inDst, h]

theorem Latched.outside_of_illegal {r : Reject} (h : decode c.word = .error r) (a : Nat) :
    c.inSrc a = false ∧ c.inDst a = false := by simp [Latched.inSrc, Latched.inDst, h]

theorem inRange_of_bounds {base len : Word} (hlo : base.toNat ≤ a) (hhi : a < base.toNat + len.toNat) :
    inRange base len a = true := by simp [inRange, hlo, hhi]

theorem mem_claims : c ∈ s.claims ↔ s.engine = some c ∨ c ∈ s.unseen := by simp [State.claims]

theorem races_iff : s.races a = true ↔ ∃ c ∈ s.claims, c.inSrc a = true ∨ c.inDst a = true := by
  simp [State.races]

/-! ### Host writes -/

theorem hostStore_race {addr : Word} (h : s.races addr.toNat = true) (v : Byte) :
    hostStore s addr v = .fault .bufferRace := if_pos h

theorem hostStore_plain {addr : Word} (h : s.races addr.toNat = false) (v : Byte) :
    hostStore s addr v = .next { s with mem := s.mem.write addr.toNat v } := by simp [hostStore, h]

/-- Settles O17: the write races exactly inside the ranges that some claimed command uses. -/
theorem hostWritesRaceOnlyInsideClaimedRanges : Obligations.HostWritesRaceOnlyInsideClaimedRanges := by
  intro s a v rest hm hin
  rw [step_cons hin]
  refine ⟨fun c i hc hd ha => hostStore_race (s := { s with inputs := rest }) ?_ v, fun hout => ?_⟩
  · refine races_iff.2 ⟨c, mem_claims.2 hc, ha.imp ?_ ?_⟩
    · rintro ⟨hi, hlo, hhi⟩
      rw [Latched.inSrc_of_decode hd, usesSrc_iff.2 hi, inRange_of_bounds hlo hhi]
      rfl
    · rintro ⟨hi, hlo, hhi⟩
      rw [Latched.inDst_of_decode hd, usesDst_iff.2 hi, inRange_of_bounds hlo hhi]
      rfl
  · have hrace : State.races { s with inputs := rest } a.toNat = false := races_outside fun c hc => by
      cases hd : decode c.word with
      | error r => exact Latched.outside_of_illegal hd _
      | ok i =>
        obtain ⟨hsrc, hdst⟩ := hout c i (mem_claims.1 hc) hd
        rw [Latched.inSrc_of_decode hd, Latched.inDst_of_decode hd, Bool.and_eq_false_imp, Bool.and_eq_false_imp]
        exact ⟨hsrc ∘ usesSrc_iff.1, hdst ∘ usesDst_iff.1⟩
    exact ⟨_, hostStore_plain hrace v, rfl, Memory.read_write_same hm _ v,
      fun b hb => Memory.read_write_other _ v hb.symm⟩

/-! ### Host reads -/

theorem hostLoad_closed {addr : Word} (h : s.openRead addr.toNat = false) :
    hostLoad s addr = .next (s.deliver ((s.mem.read addr.toNat).setWidth 64)) := by simp [hostLoad, h]

/-- A read delivers a free byte or memory's, and changes nothing but the data read and the count of draws. -/
theorem hostLoad_spec (s : State) (addr : Word) :
    ∃ d k, hostLoad s addr = .next { s with hostData := d, draws := k } ∧
      (s.openRead addr.toNat = true → d = (Config.freeByte s.draws).setWidth 64) ∧
      (s.openRead addr.toNat = false → d = (s.mem.read addr.toNat).setWidth 64) := by
  cases h : s.openRead addr.toNat with
  | true => exact ⟨_, _, if_pos h, fun _ => rfl, by simp⟩
  | false => exact ⟨_, s.draws, hostLoad_closed h, by simp, fun _ => rfl⟩

theorem step_memRead_closed {addr : Word} {rest : List Input} (hin : s.inputs = .memRead addr :: rest)
    (h : s.openRead addr.toNat = false) :
    step s = .next { s with inputs := rest, hostData := (s.mem.read addr.toNat).setWidth 64 } :=
  (step_cons hin).trans (hostLoad_closed (s := { s with inputs := rest }) h)

/-- A STATUS read with BUSY = 0 shows the host every completion (R236; log entry 17). -/
theorem step_statusRead_idle {rest : List Input} (he : s.engine = none)
    (hin : s.inputs = .busRead (s.platform.regBase + 0x010#64) 8 :: rest) :
    step s = .next { s with inputs := rest, hostData := s.statusWord, unseen := [] } := by
  have hidle : State.busy { s with inputs := rest } = false := by simp [State.busy, he]
  rw [step_busRead .status hin, hostReadReg_status, hidle]
  rfl

/-- Settles O18: whether a byte is open follows from the ranges the command in flight uses; a STATUS read with BUSY = 0
leaves no command to claim one. -/
theorem hostReadsOfCommandBuffers : Obligations.HostReadsOfCommandBuffers := by
  refine ⟨fun s c i a rest hc hin hd => ?_, fun s a rest he hin => ?_⟩
  · obtain ⟨d, k, hstep, hopen, hclosed⟩ := hostLoad_spec { s with inputs := rest } a
    have hsrc := Latched.inSrc_of_decode hd a.toNat
    have hdst := Latched.inDst_of_decode hd a.toNat
    refine ⟨_, (step_cons hin).trans hstep, rfl, rfl, fun hi ha => hclosed ?_, fun hi ha hns => ⟨_, hopen ?_⟩,
      fun hu hout => hclosed ?_⟩
    · rw [usesSrc_iff.2 hi, ha] at hsrc
      exact openRead_source hc hsrc
    · rw [hns, Bool.and_false] at hsrc
      rw [usesDst_iff.2 hi, ha] at hdst
      exact openRead_destination hc hsrc hdst
    · have hnd : c.inDst a.toNat = false := by
        rw [hdst, Bool.and_eq_false_iff, ← Bool.not_eq_true, usesDst_iff]
        exact hout
      refine openRead_outside fun c' hc' => ?_
      obtain h | h := mem_claims.1 hc'
      · cases hc.symm.trans h
        exact hnd
      · simp [hu] at h
  · exact ⟨_, _, step_statusRead_idle he hin, step_memRead_closed rfl (openRead_outside (by simp [State.claims, he])), rfl, rfl⟩

end Sys2Proof.Machine
end

section
/-! IO_ERROR names a failing access of the command (20_memory.md R61, R68; 60_exceptions.md R203). -/

namespace Sys2Proof.Machine

variable {s t u : State} {i : Instr} {e : Raise}

/-- The registers after `t` name an access of a command with operands `o` that fails: a read inside its source range or
a write inside its destination range (R61, R203). -/
def NamesFault (p : Platform) (o : Operands) (t : State) : Prop :=
  ∃ a, t.res.errAddr = BitVec.ofNat 64 a ∧
    ((t.res.errInfo = 0#64 ∧ p.busOk a .read = false ∧
        o.srcAddr.toNat ≤ a ∧ a < o.srcAddr.toNat + o.srcLen.toNat) ∨
     (t.res.errInfo = 1#64 ∧ p.busOk a .write = false ∧
        o.dstAddr.toNat ≤ a ∧ a < o.dstAddr.toNat + o.dstCap.toNat))

theorem namesFault_read {p : Platform} {o : Operands} (h : ReadFault p o.srcAddr.toNat o.srcLen.toNat e) :
    NamesFault p o (u.raise e) := by
  obtain ⟨x, rfl, hlo, hhi, hx⟩ := h
  exact ⟨x, rfl, .inl ⟨rfl, hx, hlo, hhi⟩⟩

theorem namesFault_write {p : Platform} {o : Operands} (h : WriteFault p o.dstAddr.toNat o.dstCap.toNat e) :
    NamesFault p o (u.raise e) := by
  obtain ⟨x, rfl, hlo, hhi, hx⟩ := h
  exact ⟨x, rfl, .inr ⟨rfl, hx, hlo, hhi⟩⟩

/-- Where a rule raises IO_ERROR the registers name the access that failed. -/
theorem exec_ioError_namesFault (h : exec i s = .next t) (hc : t.code = .ioError) :
    NamesFault s.platform s.operands t := by
  obtain ⟨e, he, rfl⟩ | hp := exec_precheck_cases h
  · obtain ⟨hcode | hcode, -⟩ := precheck_code he <;> cases hcode.symm.trans hc
  cases i with
  | nop =>
    obtain rfl := execNop_cases h
    cases hc
  | count =>
    obtain ⟨-, ⟨bs, -, rfl⟩ | ⟨e, he, rfl⟩⟩ := (execCount_cases h).resolve_left (by simp [hp])
    · cases hc
    · exact namesFault_read (portReadBytes_fault he)
  | buildTree =>
    obtain ⟨-, ⟨-, rfl⟩ | ⟨-, rfl⟩⟩ := (execBuildTree_cases h).resolve_left (by simp [hp]) <;> cases hc
  | buildTable =>
    obtain ⟨-, rfl⟩ := (execBuildTable_cases h).resolve_left (by simp [hp])
    cases hc
  | encode =>
    obtain ⟨-, ⟨bits, m, -, rfl⟩ | ⟨e, he, rfl⟩⟩ := (execEncode_cases h).resolve_left (by simp [hp])
    · cases hc
    · obtain hr | hw | hcode | hcode := encodeRange_fault he
      · exact namesFault_read hr
      · exact namesFault_write hw
      · cases hcode.symm.trans hc
      · cases hcode.symm.trans hc
  | decode =>
    obtain ⟨-, ⟨m, -, rfl⟩ | ⟨e, he, rfl⟩⟩ := (execDecode_cases h).resolve_left (by simp [hp])
    · cases hc
    · obtain hr | hw | hcode | hcode := decodeStream_fault he
      · exact namesFault_read hr
      · exact namesFault_write hw
      · cases hcode.symm.trans hc
      · cases hcode.symm.trans hc
  | serialize =>
    obtain ⟨-, ⟨m, -, rfl⟩ | ⟨e, he, rfl⟩⟩ := (execSerialize_cases h).resolve_left (by simp [hp])
    · cases hc
    · obtain hr | hw | hcode := serializeRange_fault he
      · exact namesFault_read hr
      · exact namesFault_write hw
      · cases hcode.symm.trans hc
  | deserialize =>
    obtain ⟨-, ⟨c, -, rfl⟩ | ⟨e, he, rfl⟩⟩ := (execDeserialize_cases h).resolve_left (by simp [hp])
    · cases hc
    · obtain hr | hcode | hcode := parseContainer_fault he
      · exact namesFault_read (hr.mono (by omega) (by omega))
      · cases hcode.symm.trans hc
      · cases hcode.symm.trans hc
  | compress =>
    obtain ⟨-, ⟨e, he, rfl⟩ | ⟨bs, hbs, ⟨-, rfl⟩ | ⟨-, rfl⟩⟩⟩ := (execCompress_cases h).resolve_left (by simp [hp])
    · exact namesFault_read (portReadBytes_fault he)
    · cases hc
    · obtain ⟨m, -, ht⟩ | ⟨e, he, ht⟩ := compressTail_cases ((s.storeCounts bs).storeTree.storeCodes) s.operands <;>
        rw [ht] at hc ⊢
      · cases hc
      · obtain hw | hcode | hcode := writeContainer_fault he (readable_of_portReadBytes hbs)
        · exact namesFault_write hw
        · cases hcode.symm.trans hc
        · cases hcode.symm.trans hc
  | decompress =>
    obtain ⟨-, ⟨e, he, rfl⟩ | ⟨c, hcont, ⟨e, he, rfl⟩ | ⟨m, -, rfl⟩⟩⟩ :=
      (execDecompress_cases h).resolve_left (by simp [hp])
    · obtain hr | hcode | hcode := parseContainer_fault he
      · exact namesFault_read (hr.mono (by omega) (by omega))
      · cases hcode.symm.trans hc
      · cases hcode.symm.trans hc
    · obtain hr | hw | hcode | hcode := decodeStream_fault he
      · have hlen := (parseContainer_segLen hcont).2
        exact namesFault_read (hr.mono (by simp only [Operands.payloadJob]; omega)
          (by simp only [Operands.payloadJob]; omega))
      · exact namesFault_write hw
      · cases hcode.symm.trans hc
      · cases hcode.symm.trans hc
    · cases hc
  | clear =>
    obtain rfl := execClear_cases h
    cases hc

/-- Settles O22: every access of a rule lies in the range it was made in, and only an access raises IO_ERROR. -/
theorem ioErrorNamesAFailingAccess : Obligations.IoErrorNamesAFailingAccess :=
  fun _ _ _ h hc => exec_ioError_namesFault h hc

end Sys2Proof.Machine
end

section
/-! The payload's bit order (20_memory.md R64, 30_encoding.md R90). -/

namespace Sys2Proof.Machine

/-- The number whose binary digits are `f 0`, `f 1`, ..., `f (n - 1)`, the most significant first, as `packByte` builds
it. -/
def msbFirst (f : Nat → Bool) (n : Nat) : Nat := (List.range n).foldl (fun acc i => 2 * acc + (f i).toNat) 0

theorem packByte_eq_msbFirst (s : Bits) (j : Nat) :
    packByte s j = BitVec.ofNat 8 (msbFirst (fun i => s.getD (8 * j + i) false) 8) := rfl

theorem msbFirst_succ (f : Nat → Bool) (n : Nat) : msbFirst f (n + 1) = 2 * msbFirst f n + (f n).toNat := by
  simp [msbFirst, List.range_succ]

theorem testBit_msbFirst (f : Nat → Bool) {n i : Nat} (h : i < n) : (msbFirst f n).testBit (n - 1 - i) = f i := by
  induction n with
  | zero => omega
  | succ n ih =>
    rw [msbFirst_succ]
    obtain hlt | rfl := Nat.lt_succ_iff_lt_or_eq.1 h
    · have hhalf : (2 * msbFirst f n + (f n).toNat) / 2 = msbFirst f n := by
        have := (f n).toNat_le
        omega
      rw [show n + 1 - 1 - i = n - 1 - i + 1 by omega, Nat.testBit_succ, hhalf, ih hlt]
    · rw [Nat.add_sub_cancel, Nat.sub_self, Nat.testBit_zero]
      cases f i <;> simp

/-- Bit 7 - i of a payload byte is the i-th of its stream bits (R64). -/
theorem packByte_getLsbD (s : Bits) (j : Nat) {i : Nat} (h : i < 8) :
    (packByte s j).getLsbD (7 - i) = s.getD (8 * j + i) false := by
  rw [packByte_eq_msbFirst, BitVec.getLsbD_ofNat, testBit_msbFirst _ h, decide_eq_true (by omega), Bool.true_and]

theorem pack_getD (s : Bits) (j : Nat) :
    (pack s).getD j 0#8 = if j < ceilDiv s.length 8 then packByte s j else 0#8 := by
  rw [List.getD_eq_getElem?_getD, pack, List.getElem?_map]
  split
  · rw [List.getElem?_range ‹_›]
    rfl
  · rw [List.getElem?_eq_none (by simpa using Nat.le_of_not_lt ‹_›)]
    rfl

/-- Settles O36: byte k / 8 holds the stream bit, and past the last byte there is no stream bit. -/
theorem payloadIsPackedMsbFirst : Obligations.PayloadIsPackedMsbFirst := by
  refine fun S => ⟨length_pack S, fun k => ?_⟩
  rw [pack_getD]
  split
  · rw [packByte_getLsbD S (k / 8) (Nat.mod_lt k (by decide)), Nat.div_add_mod]
  · have hpast : S.length ≤ k := by simp only [ceilDiv] at *; omega
    rw [List.getD_eq_default _ _ hpast, BitVec.getLsbD_zero]

end Sys2Proof.Machine
end

section
/-! Command words (30_encoding.md R80-R82): a word and its two fields, the opcode map and its inverse, and the engine's
turn on a word that selects an operation and on one that does not. -/

namespace Sys2Proof

variable {w : Word} {i : Instr} {op : Byte} {f : CmdFields}

/-! ### A word and its fields -/

@[simp] theorem CmdFields.ofWord_toWord (f : CmdFields) : CmdFields.ofWord f.toWord = f := by
  rw [CmdFields.ofWord, CmdFields.toWord, BitVec.extractLsb'_append_eq_right, BitVec.extractLsb'_append_eq_left]

@[simp] theorem CmdFields.toWord_ofWord (w : Word) : (CmdFields.ofWord w).toWord = w :=
  BitVec.extractLsb'_append_extractLsb'

/-! ### The opcode map -/

@[simp] theorem instrOfOp_opcode (i : Instr) : instrOfOp (opcode i) = some i := by cases i <;> rfl

theorem instrOfOp_eq_some_iff : instrOfOp op = some i ↔ opcode i = op := by
  refine ⟨fun h => ?_, fun h => h ▸ instrOfOp_opcode i⟩
  unfold instrOfOp at h
  split at h
  case h_12 => cases h
  all_goals
    cases h
    exact BitVec.eq_of_toNat_eq (Eq.symm ‹_›)

/-- The reserved opcodes are 0x0B..0xFF (R82). -/
theorem instrOfOp_eq_none_iff : instrOfOp op = none ↔ 0x0B ≤ op.toNat := by
  unfold instrOfOp
  split
  case h_12 =>
    simp only [imp_false, true_iff] at *
    omega
  all_goals simp [*]

/-! ### Decoding -/

theorem decodeFields_eq_ok_iff : decodeFields f = .ok i ↔ f = { op := opcode i, rsv := 0#56 } := by
  have hop : instrOfOp f.op = some i ↔ f.op = opcode i := instrOfOp_eq_some_iff.trans eq_comm
  rw [decodeFields, CmdFields.mk.injEq]
  by_cases hr : f.rsv = 0#56
  · cases ho : instrOfOp f.op <;> simp [hr, ← hop, ho]
  · simp [hr]

theorem decodeFields_error_iff : (∃ r, decodeFields f = .error r) ↔ f.rsv ≠ 0#56 ∨ 0x0B ≤ f.op.toNat := by
  rw [decodeFields, ← instrOfOp_eq_none_iff]
  by_cases hr : f.rsv = 0#56
  · cases instrOfOp f.op <;> simp [hr]
  · simp [hr]

/-- Decoding inverts encoding, and a word that decodes is an encoding: each command has one word (R80, R81). -/
theorem decode_eq_ok_iff : decode w = .ok i ↔ encode i = w := by
  rw [decode, decodeFields_eq_ok_iff, encode]
  exact ⟨fun h => h ▸ CmdFields.toWord_ofWord w, fun h => h ▸ CmdFields.ofWord_toWord _⟩

/-- Settles O1: the word of a command is the one that decodes to it. -/
theorem decodeOfEncodeIsTheCommand : Obligations.DecodeOfEncodeIsTheCommand := fun _ => decode_eq_ok_iff.2 rfl

/-- Settles O2: the first four words are the encodings of their commands; the last two lie just outside the map, by
their opcode and by their lowest reserved bit. -/
theorem opcodeMapWords : Obligations.OpcodeMapWords :=
  ⟨decode_eq_ok_iff.2 rfl, decode_eq_ok_iff.2 rfl, decode_eq_ok_iff.2 rfl, decode_eq_ok_iff.2 rfl, rfl, rfl⟩

end Sys2Proof

namespace Sys2Proof.Machine

variable {s : State} {c : Latched} {r : Reject}

/-! ### The engine's turn on a latched word -/

/-- With no input left a step is the engine's turn. -/
theorem step_nil (h : s.inputs = []) : step s = engineTurn s := by rw [step, h]

theorem engineTurn_illegal (h : s.engine = some c) (hd : decode c.word = .error r) :
    engineTurn s = .next (s.ended .badCommand 0 c.word.toNat 0) := by
  simp [engineTurn, h, hd, State.complete_eq_ended]

/-- The counterpart of `step_runs_latched` for a word that selects no operation (R82, R207). -/
theorem step_ends_illegal (h : s.engine = some c) (hd : decode c.word = .error r) :
    (s.inputs = [] → step s = .next (s.ended .badCommand 0 c.word.toNat 0)) ∧
    ∀ rest, s.inputs = .engine :: rest →
      step s = .next (State.ended { s with inputs := rest } .badCommand 0 c.word.toNat 0) :=
  ⟨fun hin => (step_nil hin).trans (engineTurn_illegal h hd), fun rest hin =>
    (step_cons hin).trans (engineTurn_illegal (s := { s with inputs := rest }) h hd)⟩

/-- Settles O4: on either form of the engine's turn the latched word is decoded and its command executed. -/
theorem stepRunsTheLatchedCommand : Obligations.StepRunsTheLatchedCommand := fun _ _ _ => step_runs_latched

/-- Settles O3: a word is rejected by its fields and accepted as an encoding only; the engine's turn ends a rejected
one. -/
theorem illegalWordsCompleteBadCommand : Obligations.IllegalWordsCompleteBadCommand := by
  refine ⟨fun w => ⟨decodeFields_error_iff, fun i => decode_eq_ok_iff.1⟩, fun s c hc hw => ?_⟩
  obtain ⟨r, hd⟩ : ∃ r, decode c.word = .error r := decodeFields_error_iff.2 hw
  exact step_ends_illegal hc hd

end Sys2Proof.Machine
end

section
/-! COUNT (40_frequency.md R111-R113): the table the counting loop leaves, its two sums, and how the command ends. -/

namespace Sys2Proof.Machine

variable {s : State}

/-! ### The counting loop -/

theorem countBytes_nil : countBytes [] = Vector.replicate 256 0#64 := rfl

theorem countBytes_concat (bs : List Byte) (c : Byte) :
    countBytes (bs ++ [c]) = (countBytes bs).put c ((countBytes bs).at c + 1#64) := by
  simp [countBytes]

/-- The counter of a symbol is the number of its occurrences, modulo 2^64. -/
theorem countBytes_at (bs : List Byte) (b : Byte) : (countBytes bs).at b = BitVec.ofNat 64 (bs.count b) := by
  induction bs using List.reverseRecOn with
  | nil => rw [countBytes_nil, Table.at_replicate, List.count_nil]
  | append_singleton bs c ih =>
    rw [countBytes_concat, Table.at_put, List.count_append, BitVec.ofNat_add, ← ih]
    obtain rfl | hne := eq_or_ne c b
    · rw [if_pos rfl, List.count_singleton_self]
    · rw [if_neg hne, List.count_eq_zero.2 (by simpa using hne.symm), BitVec.add_zero]

/-- No counter wraps on a source of fewer than 2^64 bytes (R111). -/
theorem countBytes_at_toNat {bs : List Byte} (h : bs.length < 2 ^ 64) (b : Byte) :
    ((countBytes bs).at b).toNat = bs.count b := by
  rw [countBytes_at, BitVec.toNat_ofNat, Nat.mod_eq_of_lt (Nat.lt_of_le_of_lt List.count_le_length h)]

/-- Settles O29: each count is a number of occurrences, and those of two chunks add up. -/
theorem chunkedCountingAddsUp : Obligations.ChunkedCountingAddsUp := by
  intro x y b
  rw [countBytes_at, countBytes_at, countBytes_at, List.count_append, BitVec.ofNat_add]

/-! ### The sums over the symbols -/

/-- The occurrences of all symbols add up to the length: each byte is one of the symbols. -/
theorem sum_count_allBytes (bs : List Byte) : (allBytes.map fun b => bs.count b).sum = bs.length := by
  have hmem : ∀ b ∈ (bs : Multiset Byte), b ∈ allBytes.toFinset := fun b _ => List.mem_toFinset.2 (mem_allBytes b)
  rw [← List.sum_toFinset _ nodup_allBytes]
  simpa using Multiset.sum_count_eq_card hmem

theorem totalCount_countBytes {bs : List Byte} (h : bs.length < 2 ^ 64) : totalCount (countBytes bs) = bs.length := by
  simp only [totalCount, countBytes_at_toNat h, sum_count_allBytes]

/-- Each counted symbol adds at least one to the total. -/
theorem distinctSyms_le_totalCount (freq : Table Word) : distinctSyms freq ≤ totalCount freq := by
  rw [distinctSyms, totalCount]
  induction allBytes with
  | nil => rfl
  | cons b l ih =>
    have hb : (if (freq.at b != 0#64) = true then 1 else 0) ≤ (freq.at b).toNat := by
      split
      case isTrue h => exact Nat.pos_of_ne_zero (by simpa [BitVec.toNat_eq] using h)
      case isFalse => exact Nat.zero_le _
    rw [List.countP_cons, List.map_cons, List.sum_cons]
    omega

theorem distinctSyms_le_256 (freq : Table Word) : distinctSyms freq ≤ 256 :=
  length_allBytes ▸ List.countP_le_length

/-! ### The command -/

/-- COUNT needs nothing but a source range in order (R83, R207). -/
theorem precheck_count (h : SrcOk s.operands) : precheck .count s.flags s.operands = none :=
  precheck_eq_none.2 ⟨fun _ => h, nofun, nofun, nofun⟩

/-- A COUNT whose reads complete ends OK with their count (R111). -/
theorem exec_count_ok {bs : List Byte} (hs : SrcOk s.operands) (hr : readSource s s.operands = .ok bs) :
    exec .count s = .next (State.ended (s.storeCounts bs) .ok 0 0 0) := by
  rw [exec, execCount, checked_ok (precheck_count hs), hr, ← State.complete_eq_ended, ← State.finish_eq]

/-- A COUNT with a failing read ends with it, its counts dropped (R111). -/
theorem exec_count_error {e : Raise} (hs : SrcOk s.operands) (hr : readSource s s.operands = .error e) :
    exec .count s = .next (State.ended s.dropCounts e.code e.addr e.info 0) := by
  rw [exec, execCount, checked_ok (precheck_count hs), hr, ← State.complete_eq_ended, ← State.raise_eq]

/-- Settles O27: the table is the count of the source, which is too short for a counter to wrap. -/
theorem countCountsTheSource : Obligations.CountCountsTheSource := by
  intro s hs hread
  have hlen : s.source.length = s.operands.srcLen.toNat := Memory.length_bytes ..
  have hlt : s.source.length < 2 ^ 64 := hlen ▸ s.operands.srcLen.isLt
  have htotal : totalCount (countBytes s.source) = s.operands.srcLen.toNat := (totalCount_countBytes hlt).trans hlen
  exact ⟨countBytes s.source, countBytes_at_toNat hlt, htotal,
    Nat.le_min.2 ⟨htotal ▸ distinctSyms_le_totalCount _, distinctSyms_le_256 _⟩,
    exec_count_ok hs (portReadBytes_ok hread)⟩

/-- Settles O28: the read of the source stops at byte k, and COUNT ends with that error. -/
theorem countReportsTheFirstFailingRead : Obligations.CountReportsTheFirstFailingRead :=
  fun _ _ hs hk hread hfail => exec_count_error hs (portReadBytes_error hk hread hfail)

end Sys2Proof.Machine
end

section
/-! BUILD_TREE (41_tree.md R121-R125): the seeds, the priority queue, the arena the merges leave, and how the command
ends. -/

namespace Sys2Proof.Machine

variable {freq : Table Word} {nodes : List Node} {key : Nat → Nat} {q : Queue} {n i j l r a b : Nat} {s : State}

/-! ### The seeds -/

theorem seeds_eq_map (freq : Table Word) :
    seeds freq = (allBytes.filter fun b => freq.at b != 0#64).map fun b => (b, freq.at b) := by
  rw [seeds, Table.entries_eq_map, List.filter_map]
  rfl

/-- There are L seeds (R124). -/
theorem length_seeds (freq : Table Word) : (seeds freq).length = distinctSyms freq := by
  rw [seeds_eq_map, List.length_map, distinctSyms, List.countP_eq_length_filter]

theorem seeds_eq_nil_iff : seeds freq = [] ↔ distinctSyms freq = 0 := by
  rw [← length_seeds, List.length_eq_zero_iff]

/-- A seed holds its symbol's count. -/
theorem snd_of_mem_seeds {e : Byte × Word} (h : e ∈ seeds freq) : e.2 = freq.at e.1 := by
  rw [seeds_eq_map] at h
  obtain ⟨b, -, rfl⟩ := List.mem_map.1 h
  rfl

/-! ### The priority queue -/

/-- The queue is in increasing order of (key, seq) (R121, R122). -/
abbrev Queue.Ordered (q : Queue) : Prop := q.Pairwise fun x y => x.1 < y.1 ∨ x.1 = y.1 ∧ x.2 < y.2

theorem popsBefore_iff {x y : Nat × Nat} : popsBefore x y = true ↔ x.1 < y.1 ∨ x.1 = y.1 ∧ x.2 < y.2 :=
  decide_eq_true_iff

theorem Queue.insert_eq_orderedInsert (q : Queue) (e : Nat × Nat) :
    q.insert e = q.orderedInsert (popsBefore · ·) e := by
  induction q with
  | nil => rfl
  | cons x q ih => rw [Queue.insert, List.orderedInsert_cons, ih]

theorem Queue.insert_perm (q : Queue) (e : Nat × Nat) : (q.insert e).Perm (e :: q) :=
  q.insert_eq_orderedInsert e ▸ List.perm_orderedInsert ..

theorem Queue.mem_insert {q : Queue} {e x : Nat × Nat} : x ∈ q.insert e ↔ x = e ∨ x ∈ q :=
  (q.insert_perm e).mem_iff.trans List.mem_cons

@[simp] theorem Queue.length_insert (q : Queue) (e : Nat × Nat) : (q.insert e).length = q.length + 1 :=
  (q.insert_perm e).length_eq

/-- An entry of a new seq goes in before the first one it pops before. -/
theorem Queue.Ordered.insert {q : Queue} {e : Nat × Nat} (hq : q.Ordered) (hnew : ∀ x ∈ q, x.2 ≠ e.2) :
    Queue.Ordered (q.insert e) := by
  induction q with
  | nil => exact List.pairwise_singleton ..
  | cons x q ih =>
    obtain ⟨hx, htail⟩ := List.pairwise_cons.1 hq
    obtain ⟨hne, hnew⟩ := List.forall_mem_cons.1 hnew
    rw [Queue.insert]
    split
    case isTrue he =>
      have he := popsBefore_iff.1 he
      refine List.pairwise_cons.2 ⟨List.forall_mem_cons.2 ⟨he, fun y hy => ?_⟩, hq⟩
      have := hx y hy
      omega
    case isFalse he =>
      have he := mt popsBefore_iff.2 he
      refine List.pairwise_cons.2 ⟨fun y hy => ?_, ih htail hnew⟩
      obtain rfl | hy := Queue.mem_insert.1 hy
      · omega
      · exact hx y hy

/-- Settles O31: inserting keeps the order and permutes the entries. -/
theorem queueStaysOrdered : Obligations.QueueStaysOrdered :=
  fun q e hq hnew => ⟨Queue.Ordered.insert hq hnew, q.insert_perm e⟩

/-! ### Seeding the queue -/

/-- The entries the queue is seeded with, in the order they are inserted (R121). -/
def seedEntries (freq : Table Word) : List (Nat × Nat) := (seeds freq).zipIdx.map fun e => (e.1.2.toNat, e.2)

theorem seedQueue_eq_foldl (freq : Table Word) : seedQueue freq = (seedEntries freq).foldl Queue.insert [] :=
  List.foldl_map.symm

theorem Queue.foldl_insert_perm (es : List (Nat × Nat)) : (es.foldl Queue.insert []).Perm es := by
  induction es using List.reverseRecOn with
  | nil => exact .nil
  | append_singleton es e ih =>
    rw [List.foldl_concat]
    exact (Queue.insert_perm _ e).trans ((ih.cons e).trans (List.perm_append_singleton e es).symm)

theorem Queue.foldl_insert_ordered {es : List (Nat × Nat)} (h : (es.map Prod.snd).Nodup) :
    Queue.Ordered (es.foldl Queue.insert []) := by
  induction es using List.reverseRecOn with
  | nil => exact .nil
  | append_singleton es e ih =>
    rw [List.map_append, List.map_singleton, List.nodup_append] at h
    obtain ⟨hes, -, hnew⟩ := h
    rw [List.foldl_concat]
    refine (ih hes).insert fun x hx => ?_
    exact hnew x.2 (List.mem_map_of_mem ((Queue.foldl_insert_perm es).mem_iff.1 hx)) e.2 (List.mem_singleton_self _)

theorem seedQueue_ordered (freq : Table Word) : Queue.Ordered (seedQueue freq) := by
  rw [seedQueue_eq_foldl]
  apply Queue.foldl_insert_ordered
  have hseq : (seedEntries freq).map Prod.snd = (seeds freq).zipIdx.map Prod.snd := List.map_map
  rw [hseq, List.zipIdx_map_snd]
  exact List.nodup_range'

@[simp] theorem length_seedQueue (freq : Table Word) : (seedQueue freq).length = distinctSyms freq := by
  rw [seedQueue_eq_foldl, (Queue.foldl_insert_perm _).length_eq, seedEntries, List.length_map, List.length_zipIdx,
    length_seeds]

/-- Entry `j` of the seeded queue is the j-th seed's, its key the seed's count. -/
theorem mem_seedQueue {k : Nat} : (k, j) ∈ seedQueue freq ↔ ∃ e, (seeds freq)[j]? = some e ∧ k = e.2.toNat := by
  rw [seedQueue_eq_foldl, (Queue.foldl_insert_perm _).mem_iff, seedEntries, List.mem_map]
  constructor
  · rintro ⟨⟨e, i⟩, he, h⟩
    cases h
    exact ⟨e, List.mem_zipIdx_iff_getElem?.1 he, rfl⟩
  · rintro ⟨e, he, rfl⟩
    exact ⟨(e, j), List.mem_zipIdx_iff_getElem?.2 he, rfl⟩

/-! ### The merge loop and the arena's size -/

/-- With a turn for each entry but one the loop stops only on a queue of at most one entry. -/
theorem length_le_one_of_stuck (hlen : q.length ≤ n + 1)
    (hstuck : ∀ m k1 a k2 b q', n = m + 1 → q = (k1, a) :: (k2, b) :: q' → False) : q.length ≤ 1 := by
  match q, n with
  | [], _ | [_], _ => simp
  | _ :: _ :: _, 0 => simp at hlen
  | (k1, a) :: (k2, b) :: q', m + 1 => exact (hstuck m k1 a k2 b q' rfl rfl).elim

/-- Merging appends internal nodes to the arena and changes none. -/
theorem mergeLoop_appends (n : Nat) (q : Queue) (nodes : List Node) :
    ∃ ms : List Node, mergeLoop n q nodes = nodes ++ ms ∧ ∀ m ∈ ms, ∃ l r, m = .internal l r := by
  fun_induction mergeLoop n q nodes with
  | case1 n k1 a k2 b q nodes ih =>
    obtain ⟨ms, heq, hms⟩ := ih
    exact ⟨.internal a b :: ms, by rw [heq, List.append_assoc, List.singleton_append],
      List.forall_mem_cons.2 ⟨⟨a, b, rfl⟩, hms⟩⟩
  | case2 => exact ⟨[], (List.append_nil _).symm, nofun⟩

/-- Each merge takes two entries, inserts one and creates one node. -/
theorem length_mergeLoop (hlen : q.length ≤ n + 1) :
    (mergeLoop n q nodes).length = nodes.length + (q.length - 1) := by
  fun_induction mergeLoop n q nodes with
  | case1 n k1 a k2 b q nodes ih =>
    simp only [List.length_cons] at hlen
    rw [ih (by rw [Queue.length_insert]; omega)]
    simp only [Queue.length_insert, List.length_append, List.length_cons, List.length_nil]
    omega
  | case2 n q nodes hstuck =>
    have := length_le_one_of_stuck hlen hstuck
    omega

/-- The arena is the leaves of the seeds, then internal nodes (R121). -/
theorem buildNodes_eq_append (freq : Table Word) :
    ∃ ms : List Node, buildNodes freq = (seeds freq).map (fun e => .leaf e.1) ++ ms ∧
      ∀ m ∈ ms, ∃ l r, m = .internal l r := mergeLoop_appends ..

/-- L leaves and, for L ≥ 1, L - 1 merges (R124). -/
theorem length_buildNodes (freq : Table Word) : (buildNodes freq).length = 2 * distinctSyms freq - 1 := by
  rw [buildNodes, length_mergeLoop (by rw [length_seedQueue, length_seeds]; omega), List.length_map, length_seeds,
    length_seedQueue]
  omega

theorem take_buildNodes (freq : Table Word) :
    (buildNodes freq).take (distinctSyms freq) = (allBytes.filter fun b => freq.at b != 0#64).map Node.leaf := by
  obtain ⟨ms, heq, -⟩ := buildNodes_eq_append freq
  rw [heq, List.take_left' (by rw [List.length_map, length_seeds]), seeds_eq_map, List.map_map]
  rfl

theorem buildNodes_leaf {e : Byte × Word} (h : (seeds freq)[j]? = some e) :
    (buildNodes freq)[j]? = some (.leaf e.1) := by
  obtain ⟨ms, heq, -⟩ := buildNodes_eq_append freq
  obtain ⟨hj, -⟩ := List.getElem?_eq_some_iff.1 h
  rw [heq, List.getElem?_append_left (by rwa [List.length_map]), List.getElem?_map, h]
  rfl

theorem buildNodes_internal {m : Node} (hi : distinctSyms freq ≤ i) (h : (buildNodes freq)[i]? = some m) :
    ∃ l r, m = .internal l r := by
  obtain ⟨ms, heq, hms⟩ := buildNodes_eq_append freq
  rw [heq, List.getElem?_append_right (by rwa [List.length_map, length_seeds])] at h
  exact hms m (List.mem_of_getElem? h)

/-! ### What a merge takes -/

/-- The key of a node of an arena: a leaf's count, and the sum of the children's keys (R121). -/
def nodeKey (freq : Table Word) (nodes : List Node) (i : Nat) : Nat :=
  match nodes[i]? with
  | some (.leaf b)       => (freq.at b).toNat
  | some (.internal l r) => if _ : l < i ∧ r < i then nodeKey freq nodes l + nodeKey freq nodes r else 0
  | none                 => 0
termination_by i

theorem nodeKey_leaf {b : Byte} (h : nodes[i]? = some (.leaf b)) : nodeKey freq nodes i = (freq.at b).toNat := by
  rw [nodeKey, h]

theorem nodeKey_internal (h : nodes[i]? = some (.internal l r)) (hl : l < i) (hr : r < i) :
    nodeKey freq nodes i = nodeKey freq nodes l + nodeKey freq nodes r := by
  rw [nodeKey, h]
  exact dif_pos ⟨hl, hr⟩

/-- A node does not pop before itself. -/
theorem PopsFirst.ne (h : PopsFirst key i j) : j ≠ i := by
  rintro rfl
  exact h.elim (Nat.lt_irrefl _) fun ⟨_, hlt⟩ => Nat.lt_irrefl _ hlt

/-- Node `i` joins `l` and `r`, the first and the second of the nodes waiting when it is created (R121, R122). -/
structure JoinsLeast (nodes : List Node) (key : Nat → Nat) (i l r : Nat) : Prop where
  sum    : key i = key l + key r
  left   : Waiting nodes i l
  right  : Waiting nodes i r
  order  : PopsFirst key l r
  least  : ∀ j, Waiting nodes i j → j ≠ l → j ≠ r → PopsFirst key r j

/-- Every internal node before `n` joins the two least nodes waiting. -/
def JoinsLeastBelow (nodes : List Node) (key : Nat → Nat) (n : Nat) : Prop :=
  ∀ i l r, i < n → nodes[i]? = some (.internal l r) → JoinsLeast nodes key i l r

/-- Node `i` has `j` as a child. -/
abbrev HasChild (nodes : List Node) (i j : Nat) : Prop :=
  ∃ l r : Nat, nodes[i]? = some (Node.internal l r) ∧ (l = j ∨ r = j)

/-- A node's children are waiting when it is created. -/
theorem JoinsLeastBelow.waiting_child (h : JoinsLeastBelow nodes key n) (hi : i < n) (hc : HasChild nodes i j) :
    Waiting nodes i j := by
  obtain ⟨l, r, hnode, rfl | rfl⟩ := hc
  · exact (h i l r hi hnode).left
  · exact (h i l r hi hnode).right

/-- A node waits as long as it is the child of no node. -/
theorem waiting_iff : Waiting nodes n j ↔ j < n ∧ ∀ i < n, ¬ HasChild nodes i j := by
  refine and_congr_right fun _ => ⟨fun h i hi ⟨l, r, hnode, hj⟩ => ?_, fun h i l r hi hnode => ?_⟩
  · have := h i l r hi hnode
    omega
  · exact ⟨fun hl => h i hi ⟨l, r, hnode, .inl hl⟩, fun hr => h i hi ⟨l, r, hnode, .inr hr⟩⟩

/-- The node created last waits: the children of every node come before it. -/
theorem JoinsLeastBelow.waiting_last (h : JoinsLeastBelow nodes key (n + 1)) : Waiting nodes (n + 1) n :=
  waiting_iff.2 ⟨Nat.lt_succ_self n, fun _ hi hc =>
    Nat.not_lt_of_le (Nat.le_of_lt_succ hi) (h.waiting_child hi hc).1⟩

/-- No two nodes share a child: the first of them takes it out of the waiting ones. -/
theorem JoinsLeastBelow.parent_unique (h : JoinsLeastBelow nodes key n) {i' : Nat} (hi : i < n) (hi' : i' < n)
    (hc : HasChild nodes i j) (hc' : HasChild nodes i' j) : i' = i := by
  obtain hlt | heq | hlt := Nat.lt_trichotomy i i'
  · exact ((waiting_iff.1 (h.waiting_child hi' hc')).2 i hlt hc).elim
  · exact heq.symm
  · exact ((waiting_iff.1 (h.waiting_child hi hc)).2 i' hlt hc').elim

/-- When node `n` joins `a` and `b`, these no longer wait, and `n` does. -/
theorem JoinsLeastBelow.waiting_succ (h : JoinsLeastBelow nodes key (n + 1))
    (hn : nodes[n]? = some (.internal a b)) :
    Waiting nodes (n + 1) j ↔ j = n ∨ (Waiting nodes n j ∧ j ≠ a ∧ j ≠ b) := by
  constructor
  · rintro ⟨hj, hfree⟩
    obtain ⟨ha, hb⟩ := hfree n a b (Nat.lt_succ_self n) hn
    obtain hlt | rfl := Nat.lt_succ_iff_lt_or_eq.1 hj
    · exact .inr ⟨⟨hlt, fun k l r hk => hfree k l r (Nat.lt_succ_of_lt hk)⟩, ha.symm, hb.symm⟩
    · exact .inl rfl
  · rintro (rfl | ⟨⟨hj, hfree⟩, ha, hb⟩)
    · exact h.waiting_last
    · refine ⟨Nat.lt_succ_of_lt hj, fun k l r hk hnode => ?_⟩
      obtain hlt | rfl := Nat.lt_succ_iff_lt_or_eq.1 hk
      · exact hfree k l r hlt hnode
      · cases hn.symm.trans hnode
        exact ⟨ha.symm, hb.symm⟩

/-! ### The loop's invariant -/

/-- With the first `n` nodes of the final arena created, the queue holds the waiting ones in order, each beside its key,
and every node created so far joined the two least. What waits depends on the nodes before `n` only, so the invariant
can speak of the final arena and its keys throughout. -/
structure MergeSound (freq : Table Word) (nodes : List Node) (n : Nat) (q : Queue) : Prop where
  ordered : q.Ordered
  mem_iff : ∀ k j, (k, j) ∈ q ↔ k = nodeKey freq nodes j ∧ Waiting nodes n j
  joins   : JoinsLeastBelow nodes (nodeKey freq nodes) n

section
variable {k1 k2 : Nat} (h : MergeSound freq nodes n ((k1, a) :: (k2, b) :: q))
  (hn : nodes[n]? = some (.internal a b))
include h

theorem MergeSound.first_waiting : k1 = nodeKey freq nodes a ∧ Waiting nodes n a :=
  (h.mem_iff k1 a).1 List.mem_cons_self

theorem MergeSound.second_waiting : k2 = nodeKey freq nodes b ∧ Waiting nodes n b :=
  (h.mem_iff k2 b).1 (List.mem_cons_of_mem _ List.mem_cons_self)

/-- The queue's order is the order in which its nodes pop. -/
theorem MergeSound.pops_in_order :
    PopsFirst (nodeKey freq nodes) a b ∧
    ∀ k j, (k, j) ∈ q → PopsFirst (nodeKey freq nodes) a j ∧ PopsFirst (nodeKey freq nodes) b j := by
  obtain ⟨rfl, -⟩ := h.first_waiting
  obtain ⟨rfl, -⟩ := h.second_waiting
  obtain ⟨ha, htail⟩ := List.pairwise_cons.1 h.ordered
  obtain ⟨hb, -⟩ := List.pairwise_cons.1 htail
  refine ⟨ha _ List.mem_cons_self, fun k j hj => ?_⟩
  obtain ⟨rfl, -⟩ := (h.mem_iff k j).1 (List.mem_cons_of_mem _ (List.mem_cons_of_mem _ hj))
  exact ⟨ha _ (List.mem_cons_of_mem _ hj), hb _ hj⟩

/-- The rest of the queue holds the waiting nodes but the two popped. -/
theorem MergeSound.mem_rest {k : Nat} :
    (k, j) ∈ q ↔ k = nodeKey freq nodes j ∧ Waiting nodes n j ∧ j ≠ a ∧ j ≠ b := by
  constructor
  · intro hj
    obtain ⟨hk, hw⟩ := (h.mem_iff k j).1 (List.mem_cons_of_mem _ (List.mem_cons_of_mem _ hj))
    obtain ⟨ha, hb⟩ := h.pops_in_order.2 k j hj
    exact ⟨hk, hw, ha.ne, hb.ne⟩
  · rintro ⟨hk, hw, ha, hb⟩
    have hmem := (h.mem_iff k j).2 ⟨hk, hw⟩
    simpa [ha, hb] using hmem

include hn

/-- The new node's entry has its key. -/
theorem MergeSound.sum_eq : k1 + k2 = nodeKey freq nodes n := by
  obtain ⟨rfl, ha, -⟩ := h.first_waiting
  obtain ⟨rfl, hb, -⟩ := h.second_waiting
  exact (nodeKey_internal hn ha hb).symm

theorem MergeSound.joinsLeast : JoinsLeast nodes (nodeKey freq nodes) n a b := by
  obtain ⟨rfl, ha⟩ := h.first_waiting
  obtain ⟨rfl, hb⟩ := h.second_waiting
  obtain ⟨hab, hrest⟩ := h.pops_in_order
  refine ⟨(h.sum_eq hn).symm, ha, hb, hab, fun j hw hja hjb => ?_⟩
  exact (hrest _ j (h.mem_rest.2 ⟨rfl, hw, hja, hjb⟩)).2

theorem MergeSound.joinsLeastBelow_succ : JoinsLeastBelow nodes (nodeKey freq nodes) (n + 1) := by
  intro i l r hi hnode
  obtain hlt | rfl := Nat.lt_succ_iff_lt_or_eq.1 hi
  · exact h.joins i l r hlt hnode
  · cases hn.symm.trans hnode
    exact h.joinsLeast hn

/-- A turn of the loop: pop two entries, insert the new node's. -/
theorem MergeSound.merge : MergeSound freq nodes (n + 1) (q.insert (k1 + k2, n)) where
  ordered := by
    refine Queue.Ordered.insert h.ordered.tail.tail fun x hx => ?_
    obtain ⟨-, ⟨hlt, -⟩, -⟩ := h.mem_rest.1 hx
    exact Nat.ne_of_lt hlt
  mem_iff k j := by
    rw [Queue.mem_insert, Prod.mk.injEq, h.sum_eq hn, h.mem_rest, (h.joinsLeastBelow_succ hn).waiting_succ hn]
    constructor
    · rintro (⟨rfl, rfl⟩ | ⟨hk, hj⟩)
      · exact ⟨rfl, .inl rfl⟩
      · exact ⟨hk, .inr hj⟩
    · rintro ⟨hk, rfl | hj⟩
      · exact .inl ⟨hk, rfl⟩
      · exact .inr ⟨hk, hj⟩
  joins := h.joinsLeastBelow_succ hn

end

/-- The seeded queue holds the leaves, all of which wait (R121). -/
theorem mergeSound_seedQueue (freq : Table Word) :
    MergeSound freq (buildNodes freq) (distinctSyms freq) (seedQueue freq) := by
  have hleaf : ∀ k < distinctSyms freq,
      ∃ e, (seeds freq)[k]? = some e ∧ (buildNodes freq)[k]? = some (.leaf e.1) := by
    intro k hk
    have hseed := List.getElem?_eq_getElem (length_seeds freq ▸ hk)
    exact ⟨_, hseed, buildNodes_leaf hseed⟩
  have hjoins : JoinsLeastBelow (buildNodes freq) (nodeKey freq (buildNodes freq)) (distinctSyms freq) := by
    intro i l r hi hnode
    obtain ⟨e, -, he⟩ := hleaf i hi
    cases he.symm.trans hnode
  refine ⟨seedQueue_ordered freq, fun k j => ?_, hjoins⟩
  rw [mem_seedQueue]
  constructor
  · rintro ⟨e, he, rfl⟩
    obtain ⟨hj, -⟩ := List.getElem?_eq_some_iff.1 he
    rw [nodeKey_leaf (buildNodes_leaf he), snd_of_mem_seeds (List.mem_of_getElem? he)]
    refine ⟨rfl, length_seeds freq ▸ hj, fun k l r hk hnode => ?_⟩
    obtain ⟨e', -, he'⟩ := hleaf k hk
    cases he'.symm.trans hnode
  · rintro ⟨rfl, hj, -⟩
    obtain ⟨e, he, hnode⟩ := hleaf j hj
    exact ⟨e, he, by rw [nodeKey_leaf hnode, snd_of_mem_seeds (List.mem_of_getElem? he)]⟩

/-- From a sound queue the loop goes on to one of at most one entry, sound for the whole arena. -/
theorem MergeSound.at_loop_end {turns : Nat} {built : List Node} (h : MergeSound freq nodes built.length q)
    (hlen : q.length ≤ turns + 1) (hnodes : mergeLoop turns q built = nodes) :
    ∃ q', q'.length ≤ 1 ∧ MergeSound freq nodes nodes.length q' := by
  fun_induction mergeLoop turns q built with
  | case1 turns k1 a k2 b q built ih =>
    have hn : nodes[built.length]? = some (.internal a b) := by
      obtain ⟨ms, heq, -⟩ := mergeLoop_appends turns (Queue.insert q (k1 + k2, built.length))
        (built ++ [.internal a b])
      rw [← hnodes, heq, List.append_assoc, List.getElem?_append_right (Nat.le_refl _), Nat.sub_self]
      rfl
    refine ih ?_ ?_ hnodes
    · rw [List.length_append, List.length_singleton]
      exact h.merge hn
    · simp only [List.length_cons, Queue.length_insert] at *
      omega
  | case2 turns q built hstuck =>
    subst hnodes
    exact ⟨q, length_le_one_of_stuck hlen hstuck, h⟩

theorem mergeSound_buildNodes (freq : Table Word) :
    ∃ q, q.length ≤ 1 ∧ MergeSound freq (buildNodes freq) (buildNodes freq).length q := by
  have hlen : ((seeds freq).map fun e => Node.leaf e.1).length = distinctSyms freq := by
    rw [List.length_map, length_seeds]
  refine MergeSound.at_loop_end (hlen ▸ mergeSound_seedQueue freq) ?_ rfl
  rw [length_seedQueue, length_seeds]
  exact Nat.le_succ _

/-! ### The finished arena -/

theorem joinsLeast_buildNodes (h : (buildNodes freq)[i]? = some (.internal l r)) :
    JoinsLeast (buildNodes freq) (nodeKey freq (buildNodes freq)) i l r := by
  obtain ⟨q, -, hq⟩ := mergeSound_buildNodes freq
  obtain ⟨hi, -⟩ := List.getElem?_eq_some_iff.1 h
  exact hq.joins i l r hi h

/-- The two children of a node come before it and differ (R125). -/
theorem JoinsLeast.children (h : JoinsLeast nodes key i l r) : l < i ∧ r < i ∧ l ≠ r :=
  ⟨h.left.1, h.right.1, h.order.ne.symm⟩

/-- At the end only the last node waits, so every other is a child. -/
theorem exists_parent_buildNodes (hj : j + 1 < (buildNodes freq).length) : ∃ i, HasChild (buildNodes freq) i j := by
  obtain ⟨q, hlen, hq⟩ := mergeSound_buildNodes freq
  obtain ⟨m, hm⟩ : ∃ m, (buildNodes freq).length = m + 1 := ⟨_, (Nat.sub_add_cancel (by omega)).symm⟩
  rw [hm] at hq hj
  by_contra hnone
  have hwait : Waiting (buildNodes freq) (m + 1) j :=
    waiting_iff.2 ⟨by omega, fun i _ hc => hnone ⟨i, hc⟩⟩
  have hjq := (hq.mem_iff _ j).2 ⟨rfl, hwait⟩
  have hmq := (hq.mem_iff _ m).2 ⟨rfl, hq.joins.waiting_last⟩
  obtain ⟨x, rfl⟩ := List.length_eq_one_iff.1 (Nat.le_antisymm hlen (List.length_pos_of_mem hjq))
  have heq : j = m := congrArg Prod.snd ((List.mem_singleton.1 hjq).trans (List.mem_singleton.1 hmq).symm)
  omega

/-- The parent is the only one. -/
theorem parent_unique_buildNodes {i' : Nat} (hc : HasChild (buildNodes freq) i j)
    (hc' : HasChild (buildNodes freq) i' j) : i' = i := by
  obtain ⟨q, -, hq⟩ := mergeSound_buildNodes freq
  have hlt : ∀ k, HasChild (buildNodes freq) k j → k < (buildNodes freq).length := by
    rintro k ⟨l, r, hnode, -⟩
    exact (List.getElem?_eq_some_iff.1 hnode).1
  exact hq.joins.parent_unique (hlt i hc) (hlt i' hc') hc hc'

/-- Settles O32: the merge loop's invariant, at the end of the loop, with the keys read off the finished arena. -/
theorem treeArenaShape : Obligations.TreeArenaShape := by
  refine fun freq => ⟨take_buildNodes freq, fun i m hi hm => ?_, fun j hj => ?_,
    nodeKey freq (buildNodes freq), fun i b => nodeKey_leaf, fun i l r h => ?_⟩
  · obtain ⟨l, r, rfl⟩ := buildNodes_internal hi hm
    exact ⟨l, r, rfl, (joinsLeast_buildNodes hm).children⟩
  · obtain ⟨i, hc⟩ := exists_parent_buildNodes hj
    exact ⟨i, hc, fun i' => parent_unique_buildNodes hc⟩
  · obtain ⟨hsum, hleft, hright, horder, hleast⟩ := joinsLeast_buildNodes h
    exact ⟨hsum, hleft, hright, horder, hleast⟩

/-! ### The command -/

/-- BUILD_TREE needs nothing but a count (R83, R207). -/
theorem precheck_buildTree (h : s.flags.freqValid = true) : precheck .buildTree s.flags s.operands = none := by
  refine precheck_eq_none.2 ⟨nofun, nofun, nofun, fun k hk => ?_⟩
  cases hk
  exact h

theorem exec_buildTree_ok (hf : s.flags.freqValid = true) (hne : seeds s.tables.freq ≠ []) :
    exec .buildTree s = .next (State.ended s.storeTree .ok 0 0 0) := by
  rw [exec, execBuildTree, checked_ok (precheck_buildTree hf), if_neg hne, State.finish_eq, State.complete_eq_ended]

theorem exec_buildTree_empty (hf : s.flags.freqValid = true) (hnil : seeds s.tables.freq = []) :
    exec .buildTree s = .next (State.ended s.dropTree .emptyInput 0 0 0) := by
  rw [exec, execBuildTree, checked_ok (precheck_buildTree hf), if_pos hnil, State.finishEmpty_eq,
    State.complete_eq_ended]

/-- Settles O30: the arena has 2L - 1 nodes, the last of them ROOT, unless there is no seed. -/
theorem buildTreeCompletes : Obligations.BuildTreeCompletes := by
  refine fun s hf => ⟨fun hne => ⟨length_buildNodes _, ?_⟩, fun hzero => ?_⟩
  · have hroot : (buildNodes s.tables.freq).length - 1 = 2 * distinctSyms s.tables.freq - 2 := by
      rw [length_buildNodes, Nat.sub_sub]
    rw [exec_buildTree_ok hf (mt seeds_eq_nil_iff.1 hne)]
    simp only [State.storeTree, hroot, hf]
  · rw [exec_buildTree_empty hf (seeds_eq_nil_iff.2 hzero)]
    simp only [State.dropTree, hf]

end Sys2Proof.Machine
end

section
/-! BUILD_TABLE (42_codetable.md R130-R133): the paths of a tree, the walk that records them, the code table the
records leave, and how the command ends. -/

namespace Sys2Proof.Machine

variable {freq : Table Word} {nodes : List Node} {i j m n root depth : Nat} {b s : Byte} {x : Bool}
  {c p p' path : Bits}

/-! ### The entries of a table after a list of writes -/

/-- Each symbol ends with the value of one of its writes, or, if it has none, with the value it had. -/
theorem Table.at_foldl_put_cases {α : Type} (es : List (Byte × α)) (t : Table α) (b : Byte) :
    (b, (es.foldl (fun t e => t.put e.1 e.2) t).at b) ∈ es ∨
    ((es.foldl (fun t e => t.put e.1 e.2) t).at b = t.at b ∧ ∀ v, (b, v) ∉ es) := by
  induction es using List.reverseRecOn with
  | nil => exact .inr ⟨rfl, fun _ => List.not_mem_nil⟩
  | append_singleton es e ih =>
    obtain ⟨c, v⟩ := e
    rw [List.foldl_concat, Table.at_put]
    split
    case isTrue h => exact .inl (List.mem_append_right es (h ▸ List.mem_singleton_self _))
    case isFalse h =>
      refine ih.imp (List.mem_append_left _) fun ⟨hat, hnone⟩ => ⟨hat, fun w hw => ?_⟩
      obtain hw | hw := List.mem_append.1 hw
      · exact hnone w hw
      · exact h (congrArg Prod.fst (List.mem_singleton.1 hw)).symm

/-! ### Paths in a tree -/

/-- The child of node `i` that the bit takes: 0 the left, 1 the right (R130). -/
def child (nodes : List Node) (i : Nat) (x : Bool) : Option Nat :=
  match nodes[i]? with
  | some (.internal l r) => some (if x then r else l)
  | _                    => none

theorem child_internal {l r : Nat} (h : nodes[i]? = some (.internal l r)) (x : Bool) :
    child nodes i x = some (if x then r else l) := by rw [child, h]

theorem child_leaf (h : nodes[i]? = some (.leaf s)) (x : Bool) : child nodes i x = none := by rw [child, h]

theorem child_eq_some (h : child nodes i x = some j) :
    ∃ l r, nodes[i]? = some (.internal l r) ∧ j = if x then r else l := by
  unfold child at h
  split at h
  next l r hnode => exact ⟨l, r, hnode, (Option.some.inj h).symm⟩
  next => cases h

theorem lt_length_of_child (h : child nodes i x = some j) : i < nodes.length := by
  obtain ⟨l, r, hnode, -⟩ := child_eq_some h
  exact (List.getElem?_eq_some_iff.1 hnode).1

theorem hasChild_iff : HasChild nodes i j ↔ ∃ x, child nodes i x = some j := by
  constructor
  · rintro ⟨l, r, hnode, rfl | rfl⟩
    · exact ⟨false, child_internal hnode false⟩
    · exact ⟨true, child_internal hnode true⟩
  · rintro ⟨x, h⟩
    obtain ⟨l, r, hnode, rfl⟩ := child_eq_some h
    exact ⟨l, r, hnode, by cases x <;> simp⟩

/-- The index of the node that `follow` leads to. -/
def walkTo (nodes : List Node) (i : Nat) (p : Bits) : Option Nat := p.foldlM (child nodes) i

theorem walkTo_concat :
    walkTo nodes i (p ++ [x]) = some j ↔ ∃ k, walkTo nodes i p = some k ∧ child nodes k x = some j := by
  simp [walkTo, Option.bind_eq_some_iff]

theorem follow_nil : follow nodes i [] = nodes[i]? := by rw [follow]

theorem follow_cons (x : Bool) (p : Bits) : follow nodes i (x :: p) = (child nodes i x).bind (follow nodes · p) := by
  rcases hnode : nodes[i]? with _ | (_ | ⟨l, r⟩) <;> simp [follow, child, hnode]

theorem follow_eq_walkTo (nodes : List Node) (i : Nat) (p : Bits) :
    follow nodes i p = (walkTo nodes i p).bind (nodes[·]?) := by
  induction p generalizing i with
  | nil => rw [follow_nil]; rfl
  | cons x p ih =>
    rw [follow_cons, walkTo, List.foldlM_cons]
    cases child nodes i x with
    | none => rfl
    | some j => exact ih j

/-- From a leaf only the empty path leads anywhere. -/
theorem follow_of_leaf (h : nodes[i]? = some (.leaf s)) :
    follow nodes i p = some (.leaf b) ↔ b = s ∧ p = [] := by
  cases p with
  | nil => simp [follow_nil, h, eq_comm]
  | cons x p => simp [follow_cons, child_leaf h]

/-- From an internal node a path to a leaf goes on from the left child or from the right. -/
theorem follow_of_internal {l r : Nat} (h : nodes[i]? = some (.internal l r)) :
    follow nodes i p = some (.leaf b) ↔
      (∃ q, p = false :: q ∧ follow nodes l q = some (.leaf b)) ∨
       ∃ q, p = true :: q ∧ follow nodes r q = some (.leaf b) := by
  cases p with
  | nil => simp [follow_nil, h]
  | cons x p => cases x <;> simp [follow_cons, child_internal h]

/-- A path that ends at a leaf begins no other path to a leaf (R125). -/
theorem follow_prefix {b' : Byte} (h : follow nodes i p = some (.leaf b)) (h' : follow nodes i p' = some (.leaf b'))
    (hp : p <+: p') : p = p' := by
  induction p generalizing i p' with
  | nil => exact ((follow_of_leaf (follow_nil.symm.trans h)).1 h').2.symm
  | cons x p ih =>
    obtain ⟨q, rfl, hq⟩ := List.cons_prefix_iff.1 hp
    rw [follow_cons] at h h'
    obtain ⟨k, hk, h⟩ := Option.bind_eq_some_iff.1 h
    rw [hk] at h'
    rw [ih h h' hq]

/-! ### The depth-first walk -/

/-- The internal nodes stand from index `m` on, each after its children, as the merges create them (R121, R125). -/
def LeavesFirst (nodes : List Node) (m : Nat) : Prop :=
  ∀ i l r, nodes[i]? = some (.internal l r) → m ≤ i ∧ l < i ∧ r < i

section
variable (hw : LeavesFirst nodes m)
include hw

theorem LeavesFirst.child_lt (h : child nodes i x = some j) : m ≤ i ∧ j < i := by
  obtain ⟨l, r, hnode, rfl⟩ := child_eq_some h
  obtain ⟨hm, hl, hr⟩ := hw i l r hnode
  exact ⟨hm, by split <;> assumption⟩

/-- Every step of a path but the last leads to an internal node, and to a lower one each time (R124). -/
theorem LeavesFirst.length_le {node : Node} (h : follow nodes i p = some node) : p.length ≤ i + 1 - m := by
  induction p generalizing i with
  | nil => exact Nat.zero_le _
  | cons x p ih =>
    rw [follow_cons] at h
    obtain ⟨k, hk, h⟩ := Option.bind_eq_some_iff.1 h
    have := hw.child_lt hk
    have := ih h
    rw [List.length_cons]
    omega

/-- The walk from a node records, for each path to a leaf, its symbol and the path after the path so far (R130). -/
theorem LeavesFirst.mem_walkTree (hi : i < depth) :
    (b, c) ∈ walkTree nodes depth i path ↔ ∃ q, c = path ++ q ∧ follow nodes i q = some (.leaf b) := by
  fun_induction walkTree nodes depth i path with
  | case1 => cases hi
  | case2 depth i path hnode =>
    have hnone : ∀ q, follow nodes i q ≠ some (.leaf b) := fun q => by
      cases q <;> simp [follow, hnode]
    simp [hnone]
  | case3 depth i path s hnode => simp [follow_of_leaf hnode, and_comm]
  | case4 depth i path l r hnode ihl ihr =>
    obtain ⟨-, hl, hr⟩ := hw i l r hnode
    rw [List.mem_append, ihl (by omega), ihr (by omega)]
    simp only [follow_of_internal hnode, List.append_assoc, List.singleton_append]
    constructor
    · rintro (⟨q, rfl, hq⟩ | ⟨q, rfl, hq⟩)
      · exact ⟨_, rfl, .inl ⟨q, rfl, hq⟩⟩
      · exact ⟨_, rfl, .inr ⟨q, rfl, hq⟩⟩
    · rintro ⟨_, rfl, ⟨q, rfl, hq⟩ | ⟨q, rfl, hq⟩⟩
      · exact .inl ⟨q, rfl, hq⟩
      · exact .inr ⟨q, rfl, hq⟩

/-- The walk records no path twice: the two subtrees' paths part at their node. -/
theorem LeavesFirst.nodup_walkTree (hi : i < depth) : (walkTree nodes depth i path).Nodup := by
  fun_induction walkTree nodes depth i path with
  | case1 => cases hi
  | case2 => exact .nil
  | case3 => exact List.nodup_singleton _
  | case4 depth i path l r hnode ihl ihr =>
    obtain ⟨-, hl, hr⟩ := hw i l r hnode
    refine (ihl (by omega)).append (ihr (by omega)) fun e hel her => ?_
    obtain ⟨q, hq, -⟩ := (hw.mem_walkTree (by omega)).1 hel
    obtain ⟨q', hq', -⟩ := (hw.mem_walkTree (by omega)).1 her
    simp [hq] at hq'

/-- Every internal node has two children, so the weights below a node add up to the weight of its own path
(R133 (c)). -/
theorem LeavesFirst.sum_walkTree (hi : i < depth) (hlt : i < nodes.length) {N : Nat}
    (hN : path.length + (i + 1 - m) ≤ N) :
    ((walkTree nodes depth i path).map fun e => 2 ^ (N - e.2.length)).sum = 2 ^ (N - path.length) := by
  fun_induction walkTree nodes depth i path with
  | case1 => cases hi
  | case2 depth i path hnode => exact absurd hlt (by simpa using hnode)
  | case3 => simp
  | case4 depth i path l r hnode ihl ihr =>
    obtain ⟨hm, hl, hr⟩ := hw i l r hnode
    have hlen : ∀ x : Bool, (path ++ [x]).length = path.length + 1 := fun x => by simp
    rw [List.map_append, List.sum_append, ihl (by omega) (by omega) (by rw [hlen]; omega),
      ihr (by omega) (by omega) (by rw [hlen]; omega), hlen, hlen, ← Nat.two_mul, ← Nat.pow_succ']
    congr 1
    omega

end

/-! ### The paths of the arena -/

/-- The leaves are the counted symbols in increasing order (R121). -/
theorem buildNodes_leaf_iff :
    (buildNodes freq)[j]? = some (.leaf b) ↔ (allBytes.filter fun b => freq.at b != 0#64)[j]? = some b := by
  have hget : j < distinctSyms freq →
      (buildNodes freq)[j]? = (allBytes.filter fun b => freq.at b != 0#64)[j]?.map Node.leaf := fun hj => by
    rw [← List.getElem?_take_of_lt hj, take_buildNodes, List.getElem?_map]
  constructor
  · intro h
    have hj : j < distinctSyms freq := by
      by_contra hge
      obtain ⟨l, r, hint⟩ := buildNodes_internal (Nat.le_of_not_lt hge) h
      cases hint
    rw [hget hj] at h
    simpa using h
  · intro h
    have hj : j < distinctSyms freq := by
      rw [distinctSyms, List.countP_eq_length_filter]
      exact (List.getElem?_eq_some_iff.1 h).1
    rw [hget hj, h]
    rfl

/-- No symbol has two leaves. -/
theorem buildNodes_leaf_unique (h : (buildNodes freq)[i]? = some (.leaf b))
    (h' : (buildNodes freq)[j]? = some (.leaf b)) : i = j := by
  rw [buildNodes_leaf_iff] at h h'
  exact (List.getElem?_inj (List.getElem?_eq_some_iff.1 h).1 (nodup_allBytes.filter _)).1 (h.trans h'.symm)

theorem exists_buildNodes_leaf_iff :
    (∃ j : Nat, (buildNodes freq)[j]? = some (Node.leaf b)) ↔ freq.at b ≠ 0#64 := by
  simp only [buildNodes_leaf_iff, ← List.mem_iff_getElem?, List.mem_filter, mem_allBytes, true_and, bne_iff_ne]

theorem leavesFirst_buildNodes (freq : Table Word) : LeavesFirst (buildNodes freq) (distinctSyms freq) := by
  intro i l r h
  obtain ⟨hl, hr, -⟩ := (joinsLeast_buildNodes h).children
  refine ⟨?_, hl, hr⟩
  by_contra hlt
  have hseed := List.getElem?_eq_getElem (length_seeds freq ▸ Nat.lt_of_not_le hlt)
  cases h.symm.trans (buildNodes_leaf hseed)

/-- ROOT of the arena of a count: the last node created (R121). -/
abbrev buildRoot (freq : Table Word) : Nat := (buildNodes freq).length - 1

/-- ROOT = 2L - 2 (R124). -/
theorem buildRoot_eq (freq : Table Word) : buildRoot freq = 2 * distinctSyms freq - 2 := by
  rw [buildRoot, length_buildNodes, Nat.sub_sub]

/-- A node is the child of one node, by one bit (R125). -/
theorem child_buildNodes_inj {x' : Bool} (h : child (buildNodes freq) i x = some n)
    (h' : child (buildNodes freq) j x' = some n) : i = j ∧ x = x' := by
  obtain rfl := parent_unique_buildNodes (hasChild_iff.2 ⟨_, h'⟩) (hasChild_iff.2 ⟨_, h⟩)
  obtain ⟨l, r, hnode, hn⟩ := child_eq_some h
  have hne := (joinsLeast_buildNodes hnode).children.2.2
  rw [child_internal hnode] at h'
  cases x <;> cases x' <;> simp_all

/-- The last node is nobody's child. -/
theorem child_buildNodes_lt_root (h : child (buildNodes freq) i x = some j) : j < buildRoot freq := by
  have := (leavesFirst_buildNodes freq).child_lt h
  have := lt_length_of_child h
  rw [buildRoot]
  omega

/-- One path leads from ROOT to a node (R125): its last step is from the node's parent. -/
theorem walkTo_buildNodes_inj (h : walkTo (buildNodes freq) (buildRoot freq) p = some j)
    (h' : walkTo (buildNodes freq) (buildRoot freq) p' = some j) : p = p' := by
  induction p using List.reverseRecOn generalizing p' j with
  | nil =>
    cases h
    obtain rfl | ⟨q', x', rfl⟩ := List.eq_nil_or_concat' p'
    · rfl
    · obtain ⟨k, -, hk⟩ := walkTo_concat.1 h'
      exact (Nat.lt_irrefl _ (child_buildNodes_lt_root hk)).elim
  | append_singleton q x ih =>
    obtain ⟨k, hq, hk⟩ := walkTo_concat.1 h
    obtain rfl | ⟨q', x', rfl⟩ := List.eq_nil_or_concat' p'
    · cases h'
      exact (Nat.lt_irrefl _ (child_buildNodes_lt_root hk)).elim
    · obtain ⟨k', hq', hk'⟩ := walkTo_concat.1 h'
      obtain ⟨rfl, rfl⟩ := child_buildNodes_inj hk hk'
      rw [ih hq hq']

/-- A path leads from ROOT to every node (R125): up through the parents, whose indices rise. -/
theorem exists_walkTo_buildNodes (j : Nat) (hj : j < (buildNodes freq).length) :
    ∃ p, walkTo (buildNodes freq) (buildRoot freq) p = some j := by
  obtain rfl | hne := eq_or_ne j (buildRoot freq)
  · exact ⟨[], rfl⟩
  · obtain ⟨i, hc⟩ := exists_parent_buildNodes (freq := freq) (j := j) (by rw [buildRoot] at hne; omega)
    obtain ⟨x, hx⟩ := hasChild_iff.1 hc
    have hji := (leavesFirst_buildNodes freq).child_lt hx
    obtain ⟨p, hp⟩ := exists_walkTo_buildNodes i (lt_length_of_child hx)
    exact ⟨p ++ [x], walkTo_concat.2 ⟨i, hp, hx⟩⟩
termination_by (buildNodes freq).length - j

/-- One path leads from ROOT to the leaf of a symbol. -/
theorem follow_buildNodes_inj (h : follow (buildNodes freq) (buildRoot freq) p = some (.leaf b))
    (h' : follow (buildNodes freq) (buildRoot freq) p' = some (.leaf b)) : p = p' := by
  rw [follow_eq_walkTo] at h h'
  obtain ⟨j, hj, hleaf⟩ := Option.bind_eq_some_iff.1 h
  obtain ⟨j', hj', hleaf'⟩ := Option.bind_eq_some_iff.1 h'
  obtain rfl := buildNodes_leaf_unique hleaf hleaf'
  exact walkTo_buildNodes_inj hj hj'

theorem exists_follow_buildNodes_iff :
    (∃ p, follow (buildNodes freq) (buildRoot freq) p = some (.leaf b)) ↔ freq.at b ≠ 0#64 := by
  simp only [← exists_buildNodes_leaf_iff, follow_eq_walkTo, Option.bind_eq_some_iff]
  constructor
  · rintro ⟨p, j, -, hleaf⟩
    exact ⟨j, hleaf⟩
  · rintro ⟨j, hleaf⟩
    obtain ⟨p, hp⟩ := exists_walkTo_buildNodes j (List.getElem?_eq_some_iff.1 hleaf).1
    exact ⟨p, j, hp, hleaf⟩

/-! ### What BUILD_TABLE records -/

/-- The laws of the symbols and codes recorded from the tree of a count (R133), the weights excepted. -/
structure CodeList (freq : Table Word) (es : List (Byte × Bits)) : Prop where
  nodup      : es.Nodup
  coded      : ∀ b, (∃ c, (b, c) ∈ es) ↔ freq.at b ≠ 0#64
  unique     : ∀ b c c', (b, c) ∈ es → (b, c') ∈ es → c = c'
  lengths    : ∀ b c, (b, c) ∈ es → c ≠ [] ∧ c.length ≤ 255
  prefixFree : ∀ b b' c c', (b, c) ∈ es → (b', c') ∈ es → c <+: c' → b = b'

/-- The tree of a count of one symbol is its leaf (R123). -/
theorem buildNodes_of_one (h : distinctSyms freq = 1) :
    ∃ s, buildNodes freq = [.leaf s] ∧ ∀ b, freq.at b ≠ 0#64 ↔ b = s := by
  obtain ⟨m, hm⟩ : ∃ m, buildNodes freq = [m] := List.length_eq_one_iff.1 (by rw [length_buildNodes, h])
  obtain ⟨e, he⟩ : ∃ e, seeds freq = [e] := List.length_eq_one_iff.1 (by rw [length_seeds, h])
  have hleaf : (buildNodes freq)[0]? = some (.leaf e.1) := buildNodes_leaf (by rw [he]; rfl)
  rw [hm] at hleaf
  cases hleaf
  refine ⟨e.1, hm, fun b => ?_⟩
  rw [← exists_buildNodes_leaf_iff, hm]
  constructor
  · rintro ⟨j, hj⟩
    cases List.mem_singleton.1 (List.mem_of_getElem? hj)
    rfl
  · rintro rfl
    exact ⟨0, rfl⟩

/-- The table of a tree of one leaf is its one record (R132). -/
theorem treeCodes_leaf (s : Byte) : treeCodes [.leaf s] 0 = [(s, [false])] := rfl

/-- With one symbol the one record gives it the code "0" (R132). -/
theorem treeCodes_of_one (h : distinctSyms freq = 1) :
    ∃ s, treeCodes (buildNodes freq) (buildRoot freq) = [(s, [false])] ∧ ∀ b, freq.at b ≠ 0#64 ↔ b = s := by
  obtain ⟨s, hs, hcount⟩ := buildNodes_of_one h
  refine ⟨s, ?_, hcount⟩
  rw [buildRoot, hs, List.length_singleton, treeCodes_leaf]

/-- With two symbols or more the records are those of the walk from ROOT, which the arena's size bounds (R131). -/
theorem treeCodes_of_two_le (h : 2 ≤ distinctSyms freq) :
    treeCodes (buildNodes freq) (buildRoot freq) =
      walkTree (buildNodes freq) (buildNodes freq).length (buildRoot freq) [] := by
  rw [treeCodes, if_neg (by rw [length_buildNodes]; omega)]

theorem buildRoot_lt_length (h : 1 ≤ distinctSyms freq) : buildRoot freq < (buildNodes freq).length := by
  rw [buildRoot_eq, length_buildNodes]
  omega

/-- With two symbols or more the records are the paths from ROOT to the leaves (R130, R131). -/
theorem mem_treeCodes_buildNodes (h : 2 ≤ distinctSyms freq) :
    (b, c) ∈ treeCodes (buildNodes freq) (buildRoot freq) ↔
      follow (buildNodes freq) (buildRoot freq) c = some (.leaf b) := by
  rw [treeCodes_of_two_le h, (leavesFirst_buildNodes freq).mem_walkTree (buildRoot_lt_length (by omega))]
  simp

/-- L - 1 internal nodes, of which a path passes each at most once, allow no code of more than 255 bits (R124). -/
theorem buildRoot_sub_le (freq : Table Word) : buildRoot freq + 1 - distinctSyms freq ≤ 255 := by
  have := distinctSyms_le_256 freq
  rw [buildRoot_eq]
  omega

/-- With two symbols or more ROOT is no leaf, so its path is no code. -/
theorem follow_buildNodes_ne_nil (h : 2 ≤ distinctSyms freq)
    (hp : follow (buildNodes freq) (buildRoot freq) p = some (.leaf b)) : p ≠ [] := by
  rintro rfl
  obtain ⟨l, r, hint⟩ := buildNodes_internal (by rw [buildRoot_eq]; omega) (follow_nil.symm.trans hp)
  cases hint

theorem codeList_of_one (h : distinctSyms freq = 1) :
    CodeList freq (treeCodes (buildNodes freq) (buildRoot freq)) := by
  obtain ⟨s, hs, hcount⟩ := treeCodes_of_one h
  rw [hs]
  have hmem : ∀ b c, (b, c) ∈ [(s, [false])] ↔ b = s ∧ c = [false] := fun b c => by simp
  constructor
  case nodup => exact List.nodup_singleton _
  all_goals simp only [hmem]
  case coded => exact fun b => ⟨fun ⟨_, hb, _⟩ => (hcount b).2 hb, fun hb => ⟨_, (hcount b).1 hb, rfl⟩⟩
  case unique => exact fun _ _ _ ⟨_, hc⟩ ⟨_, hc'⟩ => hc.trans hc'.symm
  case lengths =>
    rintro _ _ ⟨-, rfl⟩
    exact ⟨nofun, by simp⟩
  case prefixFree => exact fun _ _ _ _ ⟨hb, _⟩ ⟨hb', _⟩ _ => hb.trans hb'.symm

theorem codeList_of_two_le (h : 2 ≤ distinctSyms freq) :
    CodeList freq (treeCodes (buildNodes freq) (buildRoot freq)) := by
  constructor
  case nodup =>
    rw [treeCodes_of_two_le h]
    exact (leavesFirst_buildNodes freq).nodup_walkTree (buildRoot_lt_length (by omega))
  all_goals simp only [mem_treeCodes_buildNodes h]
  case coded => exact fun b => exists_follow_buildNodes_iff
  case unique => exact fun b c c' => follow_buildNodes_inj
  case lengths =>
    intro b c hc
    have hlen := (leavesFirst_buildNodes freq).length_le hc
    exact ⟨follow_buildNodes_ne_nil h hc, hlen.trans (buildRoot_sub_le freq)⟩
  case prefixFree =>
    intro b b' c c' hc hc' hp
    obtain rfl := follow_prefix hc hc' hp
    cases hc.symm.trans hc'
    rfl

theorem codeList_buildNodes (h : 1 ≤ distinctSyms freq) :
    CodeList freq (treeCodes (buildNodes freq) (buildRoot freq)) :=
  h.eq_or_lt.elim (fun h => codeList_of_one h.symm) codeList_of_two_le

/-- The weights of the codes add up to 1, of a single code to 1/2 (R133 (c)), in units of 2^-255. -/
theorem sum_treeCodes_buildNodes (h : 1 ≤ distinctSyms freq) :
    ((treeCodes (buildNodes freq) (buildRoot freq)).map fun e => 2 ^ (255 - e.2.length)).sum =
      if 2 ≤ distinctSyms freq then 2 ^ 255 else 2 ^ 254 := by
  split
  case isTrue h2 =>
    have hroot := buildRoot_lt_length h
    rw [treeCodes_of_two_le h2, (leavesFirst_buildNodes freq).sum_walkTree hroot hroot
      (by rw [List.length_nil, Nat.zero_add]; exact buildRoot_sub_le freq), List.length_nil, Nat.sub_zero]
  case isFalse h2 =>
    obtain ⟨s, hs, -⟩ := treeCodes_of_one (freq := freq) (by omega)
    rw [hs, List.map_singleton, List.sum_singleton, List.length_singleton]

/-! ### The code table of a count -/

theorem buildCodes_at_cases (nodes : List Node) (root : Nat) (b : Byte) :
    (b, (buildCodes nodes root).at b) ∈ treeCodes nodes root ∨
    ((buildCodes nodes root).at b = [] ∧ ∀ c, (b, c) ∉ treeCodes nodes root) := by
  have h := Table.at_foldl_put_cases (treeCodes nodes root) (Vector.replicate 256 []) b
  rwa [Table.at_replicate] at h

section
variable (h : CodeList freq (treeCodes nodes root))
include h

/-- The codes of the table are those recorded. -/
theorem CodeList.at_eq_iff (hc : c ≠ []) : (buildCodes nodes root).at b = c ↔ (b, c) ∈ treeCodes nodes root := by
  obtain hmem | ⟨hnil, hnone⟩ := buildCodes_at_cases nodes root b
  · exact ⟨fun hb => hb ▸ hmem, h.unique _ _ _ hmem⟩
  · rw [hnil]
    exact ⟨fun hb => (hc hb.symm).elim, fun hmem => (hnone c hmem).elim⟩

theorem CodeList.at_mem (hb : (buildCodes nodes root).at b ≠ []) :
    (b, (buildCodes nodes root).at b) ∈ treeCodes nodes root := (h.at_eq_iff hb).1 rfl

theorem CodeList.at_ne_nil_iff : (buildCodes nodes root).at b ≠ [] ↔ freq.at b ≠ 0#64 := by
  rw [← h.coded]
  constructor
  · exact fun hb => ⟨_, h.at_mem hb⟩
  · rintro ⟨c, hmem⟩
    have hc := (h.lengths b c hmem).1
    rwa [(h.at_eq_iff hc).2 hmem]

/-- The table lists its codes in the order of the symbols, the walk in the order of the tree. -/
theorem CodeList.perm_coded :
    (treeCodes nodes root).Perm
      ((allBytes.filter fun b => (buildCodes nodes root).at b != []).map
        fun b => (b, (buildCodes nodes root).at b)) := by
  refine (List.perm_ext_iff_of_nodup h.nodup ((nodup_allBytes.filter _).map fun b b' hb => congrArg Prod.fst hb)).2 ?_
  rintro ⟨b, c⟩
  simp only [List.mem_map, List.mem_filter, mem_allBytes, true_and, bne_iff_ne, Prod.mk.injEq]
  constructor
  · intro hmem
    have hc := (h.lengths b c hmem).1
    have hat := (h.at_eq_iff hc).2 hmem
    exact ⟨b, hat ▸ hc, rfl, hat⟩
  · rintro ⟨_, hne, rfl, rfl⟩
    exact h.at_mem hne

theorem CodeList.sum_coded :
    ((allBytes.filter fun b => (buildCodes nodes root).at b != []).map
      fun b => 2 ^ (255 - ((buildCodes nodes root).at b).length)).sum =
    ((treeCodes nodes root).map fun e => 2 ^ (255 - e.2.length)).sum := by
  rw [(h.perm_coded.map _).sum_eq, List.map_map]
  rfl

end

/-- Settles O34: the code of a symbol is what the walk recorded, the path to its leaf. -/
theorem codesAreThePathsFromTheRoot : Obligations.CodesAreThePathsFromTheRoot := fun _ h _ _ hc =>
  ((codeList_of_two_le h).at_eq_iff hc).trans (mem_treeCodes_buildNodes h)

/-- Settles O35: the laws of the recorded codes, read off the table. -/
theorem codeTableLaws : Obligations.CodeTableLaws := by
  intro freq h
  have hes := codeList_buildNodes h
  refine ⟨fun b => hes.at_ne_nil_iff, ?_, fun b => ?_, fun b c hne hb hc hp => ?_, ?_, fun h2 b hb => ?_⟩
  · refine List.countP_congr fun b _ => ?_
    rw [bne_iff_ne, bne_iff_ne, hes.at_ne_nil_iff]
  · obtain hmem | ⟨hnil, -⟩ := buildCodes_at_cases (buildNodes freq) (buildRoot freq) b
    · exact (hes.lengths _ _ hmem).2
    · rw [hnil]
      exact Nat.zero_le _
  · exact hne (hes.prefixFree _ _ _ _ (hes.at_mem hb) (hes.at_mem hc) hp)
  · exact hes.sum_coded.trans (sum_treeCodes_buildNodes h)
  · exact ⟨_, (mem_treeCodes_buildNodes h2).1 (hes.at_mem hb), rfl⟩

/-! ### The command -/

section
variable {s : State}

/-- BUILD_TABLE needs nothing but a tree (R83, R207). -/
theorem precheck_buildTable (h : s.flags.treeValid = true) : precheck .buildTable s.flags s.operands = none := by
  refine precheck_eq_none.2 ⟨nofun, nofun, nofun, fun k hk => ?_⟩
  cases hk
  exact h

theorem exec_buildTable_ok (h : s.flags.treeValid = true) :
    exec .buildTable s = .next (State.ended s.storeCodes .ok 0 0 0) := by
  rw [exec, execBuildTable, checked_ok (precheck_buildTable h), State.finish_eq, State.complete_eq_ended]

end

/-- The table of a tree of one leaf (R132). -/
theorem buildCodes_leaf_at (s b : Byte) : (buildCodes [.leaf s] 0).at b = if b = s then [false] else [] := by
  rw [buildCodes, treeCodes_leaf, List.foldl_cons, List.foldl_nil, Table.at_put, Table.at_replicate]
  simp only [eq_comm]

/-- Settles O33: the command stores the tree's codes, and one leaf's table is computed from its one record. -/
theorem buildTableCompletes : Obligations.BuildTableCompletes := by
  refine fun s h => ⟨exec_buildTable_ok h, fun b hnodes hroot c => ?_⟩
  rw [hnodes, hroot, buildCodes_leaf_at]

end Sys2Proof.Machine
end

section
/-! ENCODE (43_encoder.md R141, R144): what the reading loop gives, the length of a coded input, and how the command
ends. -/

namespace Sys2Proof.Machine

variable {p : Platform} {m : Memory} {codes : Table Bits} {s : State} {e : Raise}

/-! ### The reading loop -/

/-- A byte that is read and has a code puts its code before what the rest of the loop gives. -/
theorem encodeLoop_coded {a n : Nat} (hr : p.busOk a .read = true) (hc : codes.at (m.read a) ≠ []) :
    encodeLoop p m codes a (n + 1) = (encodeLoop p m codes (a + 1) n).map (codes.at (m.read a) ++ ·) := by
  rw [encodeLoop, portRead_ok hr]
  simp only [if_neg hc]
  cases encodeLoop p m codes (a + 1) n <;> rfl

/-- A byte that is read and has no code ends the loop, with its address and value. -/
theorem encodeLoop_uncoded {a n : Nat} (hr : p.busOk a .read = true) (hc : codes.at (m.read a) = []) :
    encodeLoop p m codes a (n + 1) = .error ⟨.missingCode, a, (m.read a).toNat⟩ := by
  rw [encodeLoop, portRead_ok hr]
  simp only [if_pos hc]

theorem codedStream_cons (codes : Table Bits) (b : Byte) (x : List Byte) :
    codedStream codes (b :: x) = codes.at b ++ codedStream codes x := List.flatMap_cons

/-- Over readable memory whose bytes all have a code the loop gives their codes in order (R90, R141). -/
theorem encodeLoop_ok {a n : Nat} (hr : Readable p a n) (hc : ∀ b ∈ m.bytes a n, codes.at b ≠ []) :
    encodeLoop p m codes a n = .ok (codedStream codes (m.bytes a n)) := by
  induction n generalizing a with
  | zero => rfl
  | succ n ih =>
    rw [Memory.bytes_succ] at hc ⊢
    obtain ⟨hb, hbs⟩ := List.forall_mem_cons.1 hc
    rw [encodeLoop_coded (hr a (by omega) (by omega)) hb, ih hr.tail hbs, codedStream_cons]
    rfl

/-- The loop ends at the first byte without a code, whatever the bytes behind it and their reads (R141, R209). -/
theorem encodeLoop_missing {a n k : Nat} (hk : k < n) (hr : Readable p a (k + 1))
    (hc : ∀ j, j < k → codes.at (m.read (a + j)) ≠ []) (hm : codes.at (m.read (a + k)) = []) :
    encodeLoop p m codes a n = .error ⟨.missingCode, a + k, (m.read (a + k)).toNat⟩ := by
  induction n generalizing a k with
  | zero => omega
  | succ n ih =>
    have ha : p.busOk a .read = true := hr a (by omega) (by omega)
    cases k with
    | zero => exact encodeLoop_uncoded ha hm
    | succ k =>
      have hshift (j : Nat) : a + 1 + j = a + (j + 1) := by omega
      have htail := ih (a := a + 1) (k := k) (by omega) hr.tail (fun j hj => hshift j ▸ hc (j + 1) (by omega))
        (hshift k ▸ hm)
      rw [encodeLoop_coded ha (hc 0 (by omega)), htail, hshift]
      rfl

/-! ### The length of a coded input -/

theorem length_codedStream (codes : Table Bits) (x : List Byte) :
    (codedStream codes x).length = (x.map fun b => (codes.at b).length).sum := List.length_flatMap

/-- A sum over a byte string, taken symbol by symbol: a symbol adds its value as often as it occurs. -/
theorem sum_map_eq_sum_count_mul (f : Byte → Nat) (x : List Byte) :
    (x.map f).sum = (allBytes.map fun b => x.count b * f b).sum := by
  have habsent : ∀ b ∈ allBytes.toFinset, b ∉ x.toFinset → x.count b * f b = 0 := fun b _ hb => by
    rw [List.count_eq_zero.2 (mt List.mem_toFinset.2 hb), Nat.zero_mul]
  calc (x.map f).sum = ∑ b ∈ x.toFinset, x.count b * f b := Finset.sum_list_map_count x f
    _ = ∑ b ∈ allBytes.toFinset, x.count b * f b :=
      Finset.sum_subset (fun b _ => List.mem_toFinset.2 (mem_allBytes b)) habsent
    _ = (allBytes.map fun b => x.count b * f b).sum := List.sum_toFinset _ nodup_allBytes

/-- Settles O40: the lengths of the codes added up symbol by symbol; no counter wraps on an input of at most MAX_LEN
bytes. -/
theorem payloadBitsAreCountsTimesLengths : Obligations.PayloadBitsAreCountsTimesLengths := by
  intro codes x hx
  have hlt : x.length < 2 ^ 64 := Nat.lt_of_le_of_lt hx (by decide)
  simp only [countBytes_at_toNat hlt]
  exact (length_codedStream codes x).trans (sum_map_eq_sum_count_mul _ x)

/-! ### The command -/

/-- ENCODE needs both ranges in order and apart, and a code table (R83, R207). -/
theorem precheck_encode (hs : SrcOk s.operands) (hd : DstOk s.operands) (ha : Apart s.operands)
    (hf : s.flags.etableValid = true) : precheck .encode s.flags s.operands = none := by
  refine precheck_eq_none.2 ⟨fun _ => hs, fun _ => hd, fun _ _ => ha, fun k hk => ?_⟩
  cases hk
  exact hf

/-- Bits that fit and whose packed bytes the platform writes are the output (R141). -/
theorem encodeRange_ok {o : Operands} {bits : Bits}
    (hl : encodeLoop s.platform s.mem s.tables.codes o.srcAddr.toNat o.srcLen.toNat = .ok bits)
    (hcap : ceilDiv bits.length 8 ≤ o.dstCap.toNat)
    (hw : Writable s.platform o.dstAddr.toNat (ceilDiv bits.length 8)) :
    encodeRange s o = .ok (bits, s.mem.writeAll o.dstAddr.toNat (pack bits)) := by
  rw [← length_pack] at hw
  rw [encodeRange, hl]
  simp only [if_neg (Nat.not_lt.2 hcap), portWriteBytes_ok hw]

/-- An error of the reading loop is the command's (R209). -/
theorem encodeRange_loop_error {o : Operands}
    (hl : encodeLoop s.platform s.mem s.tables.codes o.srcAddr.toNat o.srcLen.toNat = .error e) :
    encodeRange s o = .error e := by
  rw [encodeRange, hl]

/-- Bits that do not fit are refused before the first write, with the bytes they need (R208). -/
theorem encodeRange_capacity {o : Operands} {bits : Bits}
    (hl : encodeLoop s.platform s.mem s.tables.codes o.srcAddr.toNat o.srcLen.toNat = .ok bits)
    (hcap : o.dstCap.toNat < ceilDiv bits.length 8) :
    encodeRange s o = .error ⟨.capacityExceeded, o.dstAddr.toNat, ceilDiv bits.length 8⟩ := by
  rw [encodeRange, hl]
  simp only [if_pos hcap]

/-- An ENCODE whose rule gives an output stores it and its lengths (R141). -/
theorem exec_encode_ok {bits : Bits} (hp : precheck .encode s.flags s.operands = none)
    (hr : encodeRange s s.operands = .ok (bits, m)) :
    exec .encode s = .next (State.ended (s.storeEncoded s.operands bits.length m) .ok 0 0 (ceilDiv bits.length 8)) := by
  rw [exec, execEncode, checked_ok hp, hr, ← State.complete_eq_ended, ← State.finish_eq]

/-- An ENCODE whose rule raises ends with that error, and opens destination bytes only (R205 (c)). -/
theorem exec_encode_error (hp : precheck .encode s.flags s.operands = none)
    (hr : encodeRange s s.operands = .error e) :
    ∃ m n, s.DstOnly m ∧
      exec .encode s = .next (State.ended { s with mem := m, draws := n } e.code e.addr e.info 0) := by
  obtain ⟨-, hd, -, -⟩ := precheck_eq_none.1 hp
  refine ⟨_, (s.openDst s.operands).draws, openDst_dstOnly s (hd rfl).2, ?_⟩
  rw [exec, execEncode, checked_ok hp, hr]
  rfl

/-- Settles O38: the loop gives the source's codes, and their packed bytes fit and are written. -/
theorem encodeWritesThePackedCodes : Obligations.EncodeWritesThePackedCodes :=
  fun _ hs hd ha hf hread hcoded hcap hwrite =>
    exec_encode_ok (precheck_encode hs hd ha hf) (encodeRange_ok (encodeLoop_ok hread hcoded) hcap hwrite)

/-- Settles O39: the loop raises at the first byte without a code; where it gives bits, the capacity check raises. -/
theorem encodeErrors : Obligations.EncodeErrors := by
  intro s hs hd ha hf
  have hp := precheck_encode hs hd ha hf
  exact ⟨fun k hk hread hcoded hmissing =>
      exec_encode_error hp (encodeRange_loop_error (encodeLoop_missing hk hread hcoded hmissing)),
    fun hread hcoded hcap => exec_encode_error hp (encodeRange_capacity (encodeLoop_ok hread hcoded) hcap)⟩

end Sys2Proof.Machine
end

section
/-! DECODE (44_decoder.md R151-R153, R155): the loop told by the stream bits it has consumed, what it does over the
codes of entries and over bits that no code begins, and how the command ends. -/

namespace Sys2Proof.Machine

variable {p : Platform} {dt es : List DtEntry} {j : DecodeJob} {m : Memory} {s : State} {d e : DtEntry} {acc bs : Bits}
  {k out : Nat}

theorem Readable.take {a n n' : Nat} (h : Readable p a n) (hle : n' ≤ n) : Readable p a n' :=
  fun x h1 h2 => h x h1 (by omega)

/-! ### Codes of a sound table -/

theorem DtSound.code_ne_nil (h : DtSound dt) (he : e ∈ dt) : e.code ≠ [] :=
  List.length_pos_iff.1 (h.lengths e he).1

/-- An entry whose code begins another entry's code is that entry (R155). -/
theorem DtSound.eq_of_prefix (h : DtSound dt) (hd : d ∈ dt) (he : e ∈ dt) (hp : d.code <+: e.code) : d = e := by
  by_contra hne
  have hsymm : Std.Symm fun d e : DtEntry => ¬ d.code <+: e.code ∧ ¬ e.code <+: d.code := ⟨fun _ _ => And.symm⟩
  exact ((List.pairwise_map.1 h.codes).forall hd he hne).1 hp

/-- The first entry with a code is the entry that has it (R155). -/
theorem DtSound.find?_code (h : DtSound dt) (he : e ∈ dt) : dt.find? (fun d => d.code == e.code) = some e := by
  cases hf : dt.find? (fun d => d.code == e.code) with
  | none => exact absurd (List.find?_eq_none.1 hf e he) (by simp)
  | some d =>
    have hcode : d.code = e.code := by simpa using List.find?_some hf
    rw [h.eq_of_prefix (List.mem_of_find?_eq_some hf) he (hcode ▸ List.prefix_rfl)]

theorem length_le_longestCode (he : e ∈ dt) : e.code.length ≤ longestCode dt := le_foldl_max (fun e => e.code.length) he

/-- The longest code is an upper bound that an entry attains. -/
theorem longestCode_eq {n : Nat} (hle : ∀ e ∈ dt, e.code.length ≤ n) (hn : ∃ e ∈ dt, e.code.length = n) :
    longestCode dt = n := by
  obtain ⟨e, he, rfl⟩ := hn
  obtain ⟨d, hd, hmax⟩ := exists_eq_foldl_max (fun e : DtEntry => e.code.length) (List.ne_nil_of_mem he)
  exact Nat.le_antisymm (hmax.symm.trans_le (hle d hd)) (length_le_longestCode he)

/-! ### The payload's bits -/

@[simp] theorem length_payloadStream (m : Memory) (a n : Nat) : (payloadStream m a n).length = 8 * n := by
  simp [payloadStream]

/-- A bit left of the payload: there is one to consume, its value, and what is left behind it. -/
theorem payloadStream_drop_cons {a n : Nat} {b : Bool} {rest : Bits} (h : (payloadStream m a n).drop k = b :: rest) :
    k < 8 * n ∧ streamBit (m.read (a + k / 8)) k = b ∧ (payloadStream m a n).drop (k + 1) = rest := by
  have hk : k < (payloadStream m a n).length := by
    by_contra hge
    rw [List.drop_eq_nil_of_le (Nat.not_lt.1 hge)] at h
    cases h
  rw [List.drop_eq_getElem_cons hk] at h
  obtain ⟨hbit, hrest⟩ := List.cons.inj h
  exact ⟨by simpa using hk, by simpa [payloadStream] using hbit, hrest⟩

/-- Behind a part of what a bit string begins with, it goes on with the rest of it. -/
theorem prefix_drop_length {l₁ l₂ l : Bits} (h : l₁ ++ l₂ <+: l) : l₂ <+: l.drop l₁.length := by
  simpa using h.drop l₁.length

/-- The bytes a job writes lie outside its payload. -/
abbrev DecodeJob.Apart (j : DecodeJob) : Prop :=
  ∀ a, j.src ≤ a → a < j.src + j.srcLen → a < j.dst ∨ j.dst + j.orig ≤ a

/-- The writes of a job leave its payload alone. -/
theorem payloadStream_writeAll (ha : j.Apart) (m : Memory) (vs : List Byte) {a : Nat} (hlo : j.dst ≤ a)
    (hhi : a + vs.length ≤ j.dst + j.orig) :
    payloadStream (m.writeAll a vs) j.src j.srcLen = payloadStream m j.src j.srcLen :=
  List.map_congr_left fun k hk => by
    have hk := List.mem_range.1 hk
    have := ha (j.src + k / 8) (by omega) (by omega)
    rw [Memory.read_writeAll_outside _ _ _ (by omega)]

/-! ### The loop -/

/-- The loop of R151 with `k` stream bits consumed: the rest of the payload is left, and the current byte is the one
that holds the last bit consumed. -/
def decodeAt (p : Platform) (dt : List DtEntry) (j : DecodeJob) (k : Nat) (acc : Bits) (out : Nat) (m : Memory) :
    Except Raise Memory :=
  decodeLoop p dt j (8 * j.srcLen - k) k (m.read (j.src + (k - 1) / 8)) acc out m

/-- Nothing to decode is decoded without an access (R151). -/
theorem decodeStream_nothing (h : j.orig = 0) : decodeStream p dt j m = .ok m := by
  rw [decodeStream, if_neg (by omega), if_pos h]

/-- More bytes than the destination holds are refused before any access (R208). -/
theorem decodeStream_capacity (h : j.cap < j.orig) :
    decodeStream p dt j m = .error ⟨.capacityExceeded, j.dst, j.orig⟩ := by
  rw [decodeStream, if_pos h]

/-- An empty table decodes nothing (R151). -/
theorem decodeStream_noTable (hcap : j.orig ≤ j.cap) (horig : 0 < j.orig) :
    decodeStream p [] j m = .error ⟨.malformedStream, j.src, 0⟩ := by
  rw [decodeStream, if_neg (by omega), if_neg (by omega), if_pos rfl]

/-- After its checks a decoding is the loop with no bit consumed. -/
theorem decodeStream_eq_decodeAt (hcap : j.orig ≤ j.cap) (horig : 0 < j.orig) (hdt : dt ≠ []) :
    decodeStream p dt j m = decodeAt p dt j 0 [] 0 m := by
  rw [decodeStream, if_neg (by omega), if_neg (by omega), if_neg hdt, decodeAt, Nat.sub_zero]
  cases 8 * j.srcLen <;> rfl

/-- The loop stops when it has produced ORIG_LEN bytes, whatever is left of the payload (R152). -/
theorem decodeAt_done (h : j.orig ≤ out) : decodeAt p dt j k acc out m = .ok m := by
  rw [decodeAt]
  cases 8 * j.srcLen - k <;> rw [decodeLoop, if_neg (Nat.not_lt.2 h)]

/-- The loop fails when the payload ends first (R151). -/
theorem decodeAt_end (hout : out < j.orig) (hk : 8 * j.srcLen ≤ k) :
    decodeAt p dt j k acc out m = .error ⟨.malformedStream, j.src + j.srcLen, k⟩ := by
  rw [decodeAt, Nat.sub_eq_zero_of_le hk, decodeLoop, if_pos hout]

/-- Bit `k` is taken from byte k / 8, whether that is read now or is the current byte. -/
theorem currentByte_eq (hr : p.busOk (j.src + k / 8) .read = true) :
    (if k % 8 = 0 then portRead p m (j.src + k / 8) else .ok (m.read (j.src + (k - 1) / 8))) =
      .ok (m.read (j.src + k / 8)) := by
  split
  · exact portRead_ok hr
  · rw [show (k - 1) / 8 = k / 8 by omega]

section
variable {b : Bool} {rest : Bits} (hout : out < j.orig) (hb : (payloadStream m j.src j.srcLen).drop k = b :: rest)
  (hr : p.busOk (j.src + k / 8) .read = true)
include hout hb hr

/-- A bit that completes no code is put to the accumulator, or ends the loop at its byte when that makes the
accumulator as long as the longest code (R151, R153). -/
theorem decodeAt_noCode (hno : ∀ e ∈ dt, e.code ≠ acc ++ [b]) :
    decodeAt p dt j k acc out m =
      if (acc ++ [b]).length = longestCode dt then .error ⟨.malformedStream, j.src + k / 8, k + 1⟩
      else decodeAt p dt j (k + 1) (acc ++ [b]) out m := by
  obtain ⟨hk, rfl, -⟩ := payloadStream_drop_cons hb
  have hfind : dt.find? (fun e => e.code == acc ++ [streamBit (m.read (j.src + k / 8)) k]) = none :=
    List.find?_eq_none.2 fun e he => by simpa using hno e he
  rw [decodeAt, show 8 * j.srcLen - k = 8 * j.srcLen - (k + 1) + 1 by omega, decodeLoop, if_pos hout,
    currentByte_eq hr]
  simp only [hfind]
  rfl

/-- A bit that completes the code of an entry writes its symbol and empties the accumulator. -/
theorem decodeAt_match (hdt : DtSound dt) (he : e ∈ dt) (hcode : e.code = acc ++ [b]) (ha : j.Apart)
    (hw : p.busOk (j.dst + out) .write = true) :
    decodeAt p dt j k acc out m = decodeAt p dt j (k + 1) [] (out + 1) (m.write (j.dst + out) e.sym) := by
  obtain ⟨hk, rfl, -⟩ := payloadStream_drop_cons hb
  have hfind := hdt.find?_code he
  rw [hcode] at hfind
  rw [decodeAt, show 8 * j.srcLen - k = 8 * j.srcLen - (k + 1) + 1 by omega, decodeLoop, if_pos hout,
    currentByte_eq hr]
  simp only [hfind, portWrite_ok hw]
  have hapart := ha (j.src + k / 8) (by omega) (by omega)
  rw [decodeAt, Nat.add_sub_cancel, Memory.read_write_other _ _ (by omega)]

end

/-- Over bits that no code begins, fewer than the longest code has, the loop accumulates them. -/
theorem decodeAt_accumulate (hout : out < j.orig) (hb : bs <+: (payloadStream m j.src j.srcLen).drop k)
    (hr : Readable p j.src ((k + bs.length + 7) / 8)) (hno : ∀ e ∈ dt, ¬ e.code <+: acc ++ bs)
    (hlen : (acc ++ bs).length < longestCode dt) :
    decodeAt p dt j k acc out m = decodeAt p dt j (k + bs.length) (acc ++ bs) out m := by
  induction bs generalizing k acc with
  | nil => simp
  | cons b bs ih =>
    obtain ⟨rest, hrest⟩ := hb
    obtain ⟨-, -, htail⟩ := payloadStream_drop_cons hrest.symm
    have hsplit : acc ++ b :: bs = acc ++ [b] ++ bs := by simp
    have hbits : k + (b :: bs).length = k + 1 + bs.length := by simp only [List.length_cons]; omega
    rw [hsplit] at hno hlen ⊢
    rw [hbits] at hr ⊢
    have hshort : (acc ++ [b]).length ≠ longestCode dt := fun h => by
      rw [List.length_append, h] at hlen
      omega
    rw [decodeAt_noCode hout hrest.symm (hr _ (by omega) (by omega))
        (fun e he hcode => hno e he (hcode ▸ List.prefix_append _ _)), if_neg hshort,
      ih ⟨rest, htail.symm⟩ hr hno hlen]

/-- Over the code of an entry the loop writes its symbol (R151, R155). -/
theorem decodeAt_code (hdt : DtSound dt) (he : e ∈ dt) (ha : j.Apart) (hout : out < j.orig)
    (hb : e.code <+: (payloadStream m j.src j.srcLen).drop k)
    (hr : Readable p j.src ((k + e.code.length + 7) / 8)) (hw : p.busOk (j.dst + out) .write = true) :
    decodeAt p dt j k [] out m =
      decodeAt p dt j (k + e.code.length) [] (out + 1) (m.write (j.dst + out) e.sym) := by
  obtain ⟨bs, b, hcode⟩ := (List.eq_nil_or_concat' e.code).resolve_left (hdt.code_ne_nil he)
  have hlen : e.code.length = bs.length + 1 := by simp [hcode]
  obtain ⟨rest, hrest⟩ := hb
  rw [hcode, List.append_assoc] at hrest
  have hlast : (payloadStream m j.src j.srcLen).drop (k + bs.length) = b :: rest := by
    rw [← List.drop_drop, ← hrest]; simp
  have hno : ∀ d ∈ dt, ¬ d.code <+: bs := fun d hd hp => by
    obtain rfl := hdt.eq_of_prefix hd he (hp.trans (hcode ▸ List.prefix_append bs [b]))
    have := hp.length_le
    omega
  have hlongest := length_le_longestCode he
  rw [hlen] at hr hlongest ⊢
  rw [decodeAt_accumulate hout ⟨_, hrest⟩ (hr.take (by omega)) hno (acc := []) hlongest, List.nil_append,
    decodeAt_match hout hlast (hr _ (by omega) (by omega)) hdt he hcode ha hw]
  rfl

/-- Over the codes of a sequence of entries the loop writes their symbols. -/
theorem decodeAt_codes (hdt : DtSound dt) (hes : ∀ e ∈ es, e ∈ dt) (ha : j.Apart) (hout : out + es.length ≤ j.orig)
    (hb : es.flatMap DtEntry.code <+: (payloadStream m j.src j.srcLen).drop k)
    (hr : Readable p j.src ((k + (es.flatMap DtEntry.code).length + 7) / 8))
    (hw : Writable p (j.dst + out) es.length) :
    decodeAt p dt j k [] out m = decodeAt p dt j (k + (es.flatMap DtEntry.code).length) [] (out + es.length)
      (m.writeAll (j.dst + out) (es.map DtEntry.sym)) := by
  induction es generalizing k out m with
  | nil => rfl
  | cons e es ih =>
    obtain ⟨he, hes⟩ := List.forall_mem_cons.1 hes
    simp only [List.flatMap_cons, List.length_append, List.length_cons, ← Nat.add_assoc] at hb hr hout hw ⊢
    have hcode : e.code <+: (payloadStream m j.src j.srcLen).drop k := (List.prefix_append _ _).trans hb
    have hcodes := prefix_drop_length hb
    rw [List.drop_drop] at hcodes
    rw [← payloadStream_writeAll ha m [e.sym] (Nat.le_add_right j.dst out) (by rw [List.length_singleton]; omega),
      Memory.writeAll_cons, Memory.writeAll_nil] at hcodes
    rw [decodeAt_code hdt he ha (by omega) hcode (hr.take (by omega)) (hw _ (by omega) (by omega)),
      ih hes (by omega) hcodes hr hw.tail, Nat.add_right_comm out]
    rfl

/-- A payload that begins with the codes of a sequence of entries, as many as are asked for, decodes to their symbols
(R151, R152, R156). -/
theorem decodeStream_ok (hdt : DtSound dt) (hes : ∀ e ∈ es, e ∈ dt) (ha : j.Apart) (horig : j.orig = es.length)
    (hcap : es.length ≤ j.cap) (hb : es.flatMap DtEntry.code <+: payloadStream m j.src j.srcLen)
    (hr : Readable p j.src (((es.flatMap DtEntry.code).length + 7) / 8)) (hw : Writable p j.dst es.length) :
    decodeStream p dt j m = .ok (m.writeAll j.dst (es.map DtEntry.sym)) := by
  cases es with
  | nil => exact decodeStream_nothing horig
  | cons e es =>
    have hpos : 0 < (e :: es).length := Nat.succ_pos _
    rw [decodeStream_eq_decodeAt (by omega) (by omega) (List.ne_nil_of_mem (hes e List.mem_cons_self)),
      decodeAt_codes hdt hes ha (by omega) (by simpa using hb) (by simpa using hr) hw, decodeAt_done (by omega),
      Nat.add_zero]

section
variable {tail : Bits} (hdt : DtSound dt) (hes : ∀ e ∈ es, e ∈ dt) (ha : j.Apart) (horig : es.length < j.orig)
  (hcap : j.orig ≤ j.cap) (hr : Readable p j.src j.srcLen) (hw : Writable p j.dst es.length)
include hdt hes ha horig hcap hr hw

/-- The loop behind the codes of fewer entries than are asked for, and behind bits that no code begins, fewer than the
longest code has. -/
theorem decodeStream_eq_decodeAt_prefix (hb : es.flatMap DtEntry.code ++ bs <+: payloadStream m j.src j.srcLen)
    (hno : ∀ e ∈ dt, ¬ e.code <+: bs) (hlen : bs.length < longestCode dt) :
    decodeStream p dt j m = decodeAt p dt j (es.flatMap DtEntry.code ++ bs).length bs es.length
      (m.writeAll j.dst (es.map DtEntry.sym)) := by
  have hne : dt ≠ [] := by
    rintro rfl
    exact absurd hlen (Nat.not_lt_zero _)
  have hle := hb.length_le
  rw [length_payloadStream, List.length_append] at hle
  have hbits := prefix_drop_length hb
  rw [← payloadStream_writeAll ha m (es.map DtEntry.sym) (Nat.le_refl j.dst)
    (by rw [List.length_map]; omega)] at hbits
  rw [decodeStream_eq_decodeAt hcap (by omega) hne,
    decodeAt_codes hdt hes ha (by omega) ((List.prefix_append _ _).trans hb) (hr.take (by omega)) (out := 0) hw,
    Nat.zero_add, Nat.zero_add, Nat.add_zero, decodeAt_accumulate horig hbits (hr.take (by omega)) hno (acc := []) hlen,
    List.nil_append, List.length_append]

/-- A payload that ends in bits that no code begins, fewer than the longest code has, is exhausted (R151). -/
theorem decodeStream_exhausted (hb : es.flatMap DtEntry.code ++ tail = payloadStream m j.src j.srcLen)
    (hno : ∀ e ∈ dt, ¬ e.code <+: tail) (hlen : tail.length < longestCode dt) :
    decodeStream p dt j m = .error ⟨.malformedStream, j.src + j.srcLen, 8 * j.srcLen⟩ := by
  rw [decodeStream_eq_decodeAt_prefix hdt hes ha horig hcap hr hw (hb ▸ List.prefix_rfl) hno hlen, hb,
    length_payloadStream, decodeAt_end horig (Nat.le_refl _)]

/-- A payload that goes on with as many bits as the longest code has, which no code begins, matches nothing; the last
of those bits is reported (R151, R153). -/
theorem decodeStream_noMatch (hb : es.flatMap DtEntry.code ++ tail <+: payloadStream m j.src j.srcLen)
    (hno : ∀ e ∈ dt, ¬ e.code <+: tail) (hne : tail ≠ []) (hlen : tail.length = longestCode dt) :
    decodeStream p dt j m = .error ⟨.malformedStream,
      j.src + ((es.flatMap DtEntry.code ++ tail).length - 1) / 8, (es.flatMap DtEntry.code ++ tail).length⟩ := by
  obtain ⟨bs, b, rfl⟩ := (List.eq_nil_or_concat' tail).resolve_left hne
  have hshort : bs.length < longestCode dt := by simp [← hlen]
  rw [← List.append_assoc] at hb ⊢
  have hle := hb.length_le
  rw [length_payloadStream, List.length_append, List.length_singleton] at hle
  obtain ⟨rest, hrest⟩ := prefix_drop_length hb
  rw [← payloadStream_writeAll ha m (es.map DtEntry.sym) (Nat.le_refl j.dst)
    (by rw [List.length_map]; omega)] at hrest
  rw [decodeStream_eq_decodeAt_prefix hdt hes ha horig hcap hr hw ((List.prefix_append _ _).trans hb)
      (fun e he hp => hno e he (hp.trans (List.prefix_append _ _))) hshort,
    decodeAt_noCode horig hrest.symm (hr _ (by omega) (by omega))
      (fun e he hcode => hno e he (hcode ▸ List.prefix_rfl)), if_pos hlen,
    List.length_append (bs := [b]), List.length_singleton, Nat.add_sub_cancel]

end

/-! ### The command -/

/-- DECODE needs both ranges in order and apart, and a decoding table (R83, R207). -/
theorem precheck_decode (hs : SrcOk s.operands) (hd : DstOk s.operands) (ha : Apart s.operands)
    (hf : s.flags.dtableValid = true) : precheck .decode s.flags s.operands = none := by
  refine precheck_eq_none.2 ⟨fun _ => hs, fun _ => hd, fun _ _ => ha, fun k hk => ?_⟩
  cases hk
  exact hf

/-- The bytes a DECODE produces, when they fit, lie outside its payload (R151, R207). -/
theorem decodeJob_apart {o : Operands} (h : Apart o) (hcap : o.origLen.toNat ≤ o.dstCap.toNat) : o.decodeJob.Apart := by
  intro a hlo hhi
  simp only [Operands.decodeJob] at hlo hhi ⊢
  omega

/-- A DECODE whose rule gives a memory stores it (R151). -/
theorem exec_decode_ok (hp : precheck .decode s.flags s.operands = none)
    (hr : decodeStream s.platform s.tables.dt s.operands.decodeJob s.mem = .ok m) :
    exec .decode s = .next (State.ended { s with mem := m } .ok 0 0 s.operands.origLen.toNat) := by
  rw [exec, execDecode, checked_ok hp, hr]
  rfl

/-- A DECODE whose rule raises ends with that error, and opens destination bytes only (R205 (c)). -/
theorem exec_decode_error {r : Raise} (hp : precheck .decode s.flags s.operands = none)
    (hr : decodeStream s.platform s.tables.dt s.operands.decodeJob s.mem = .error r) :
    ∃ m n, s.DstOnly m ∧
      exec .decode s = .next (State.ended { s with mem := m, draws := n } r.code r.addr r.info 0) := by
  obtain ⟨-, hd, -, -⟩ := precheck_eq_none.1 hp
  refine ⟨_, (s.openDst s.operands).draws, openDst_dstOnly s (hd rfl).2, ?_⟩
  rw [exec, execDecode, checked_ok hp, hr]
  rfl

/-- Settles O41: the loop writes the symbols of the entries and then has all it needs. -/
theorem decodeWritesTheSymbols : Obligations.DecodeWritesTheSymbols := by
  intro s es hs hd ha hf hdt hes horig hb hcap hr hw
  rw [← horig]
  exact exec_decode_ok (precheck_decode hs hd ha hf)
    (decodeStream_ok hdt hes (decodeJob_apart ha (horig ▸ hcap)) horig hcap hb hr hw)

/-- Settles O42: the two checks before the loop. -/
theorem decodeOfNothingAndOfTooMuch : Obligations.DecodeOfNothingAndOfTooMuch := by
  intro s hs hd ha hf
  have hp := precheck_decode hs hd ha hf
  refine ⟨fun hz => ?_, fun hcap => exec_decode_error hp (decodeStream_capacity hcap)⟩
  have horig : s.operands.origLen.toNat = 0 := by rw [hz]; rfl
  rw [exec_decode_ok hp (decodeStream_nothing horig), horig]

/-- Settles O43: behind the codes the loop accumulates bits that match nothing, until the payload ends or the
accumulator is as long as the longest code; an empty table is refused before it. -/
theorem decodeOfABadPayloadIsMalformed : Obligations.DecodeOfABadPayloadIsMalformed := by
  intro s es tail hs hd ha hf hdt hes horig hcap
  have hp := precheck_decode hs hd ha hf
  have hj := decodeJob_apart ha hcap
  refine ⟨fun ⟨hr, hw⟩ ⟨e, he, hlt⟩ hno hb => ?_, fun ⟨hr, hw⟩ ⟨e, he, hlen⟩ hno hb => ?_, fun hnil => ?_⟩
  · exact exec_decode_error hp (decodeStream_exhausted hdt hes hj horig hcap hr hw hb hno
      (hlt.trans_le (length_le_longestCode he)))
  · have hpos := (hdt.lengths e he).1
    exact exec_decode_error hp (decodeStream_noMatch hdt hes hj horig hcap hr hw hb (fun d hd => (hno d hd).2)
      (List.length_pos_iff.1 (hlen ▸ hpos)) (longestCode_eq (fun d hd => (hno d hd).1) ⟨e, he, hlen⟩).symm)
  · exact exec_decode_error hp (hnil ▸ decodeStream_noTable hcap (Nat.zero_lt_of_lt horig))

end Sys2Proof.Machine
end

section
/-! ParseSegment (45_filecodec.md R168, R169): byte strings at the memory port, one character, one entry, and the
entries a segment begins with. -/

namespace Sys2Proof.Machine

variable {p : Platform} {m : Memory} {a n left rest turns : Nat} {bs cs tail : List Byte} {c sym : Byte} {b sep : Bool}
  {acc code : Bits} {es ds : List DtEntry} {e : DtEntry} {r : Raise}

/-! ### Byte strings at the port -/

/-- The port reads the byte string `bs` at `a` (R61, R68). -/
def Delivers (p : Platform) (m : Memory) (a : Nat) (bs : List Byte) : Prop := portReadBytes p m a bs.length = .ok bs

theorem delivers_of_bytes (hr : Readable p a n) (hb : m.bytes a n = bs) : Delivers p m a bs := by
  rw [Delivers, ← hb, Memory.length_bytes, portReadBytes_ok hr]

theorem delivers_cons : Delivers p m a (c :: bs) ↔ portRead p m a = .ok c ∧ Delivers p m (a + 1) bs := by
  rw [Delivers, Delivers, List.length_cons, portReadBytes]
  cases portRead p m a with
  | error _ => simp
  | ok _ => cases portReadBytes p m (a + 1) bs.length <;> simp

theorem delivers_append : Delivers p m a (bs ++ cs) ↔ Delivers p m a bs ∧ Delivers p m (a + bs.length) cs := by
  induction bs generalizing a with
  | nil => simp [Delivers, portReadBytes]
  | cons c bs ih =>
    rw [List.cons_append, delivers_cons, ih, delivers_cons, and_assoc, List.length_cons, Nat.add_right_comm,
      Nat.add_assoc]

/-! ### The inner loop -/

theorem parseCode_end : parseCode p m a 0 acc = .ok (acc, false, 0) := rfl

/-- A null byte ends the code and stays to be read (R168). -/
theorem parseCode_separator (hr : portRead p m a = .ok 0x00#8) :
    parseCode p m a (left + 1) acc = .ok (acc, true, left + 1) := by
  rw [parseCode, hr]
  rfl

/-- A character adds its bit, unless the code has all the bits it may have (R168). -/
theorem parseCode_char (hr : portRead p m a = .ok (codeChar b)) :
    parseCode p m a (left + 1) acc =
      if acc.length = 255 then .error ⟨.malformedTable, a, 3⟩ else parseCode p m (a + 1) left (acc ++ [b]) := by
  rw [parseCode, hr]
  cases b <;> rfl

/-- A 256th character is refused where it stands (R169 reason 3). -/
theorem parseCode_tooLong (hr : portRead p m a = .ok (codeChar b)) (hacc : acc.length = 255) :
    parseCode p m a (left + 1) acc = .error ⟨.malformedTable, a, 3⟩ := by
  rw [parseCode_char hr, if_pos hacc]

/-- Any other byte is refused where it stands (R169 reason 1). -/
theorem parseCode_badChar (hr : portRead p m a = .ok c) (h0 : c ≠ 0x00#8) (h30 : c ≠ 0x30#8) (h31 : c ≠ 0x31#8) :
    parseCode p m a (left + 1) acc = .error ⟨.malformedTable, a, 1⟩ := by
  rw [parseCode, hr]
  simp only [if_neg h0, if_pos (And.intro h30 h31)]

/-- Over the characters of bits the loop adds the bits. -/
theorem parseCode_chars (h : Delivers p m a (code.map codeChar)) (hlen : acc.length + code.length ≤ 255) :
    parseCode p m a (code.length + left) acc = parseCode p m (a + code.length) left (acc ++ code) := by
  induction code generalizing a acc with
  | nil => simp
  | cons b code ih =>
    obtain ⟨hb, hcode⟩ := delivers_cons.1 h
    rw [List.length_cons] at hlen
    rw [List.length_cons, Nat.add_right_comm, parseCode_char hb, if_neg (by omega),
      ih hcode (by rw [List.length_append, List.length_singleton]; omega), List.append_assoc, Nat.add_right_comm,
      Nat.add_assoc]
    rfl

/-- A code that the loop gives has at most 255 bits (R168). -/
theorem parseCode_length_le (h : parseCode p m a left acc = .ok (code, sep, rest)) (hacc : acc.length ≤ 255) :
    code.length ≤ 255 := by
  induction left generalizing a acc with
  | zero =>
    cases h
    exact hacc
  | succ left ih =>
    simp only [parseCode] at h
    split at h
    · cases h
    · split at h
      · cases h
        exact hacc
      · split at h
        · cases h
        · split at h
          · cases h
          · have hlt : acc.length < 255 := lt_of_le_of_ne hacc ‹_›
            exact ih h (by rwa [List.length_append, List.length_singleton, Nat.succ_le_iff])

/-! ### The checks on an entry -/

theorem clash_iff {c d : Bits} : clash c d = true ↔ c <+: d ∨ d <+: c := by
  rw [clash, Bool.or_eq_true, List.isPrefixOf_iff_prefix, List.isPrefixOf_iff_prefix]

section
variable {symAddr endAddr : Nat}

theorem checkEntry_empty : checkEntry es sym [] symAddr endAddr = some ⟨.malformedTable, endAddr, 2⟩ := rfl

theorem checkEntry_duplicate (hc : code ≠ []) (hs : sym ∈ es.map DtEntry.sym) :
    checkEntry es sym code symAddr endAddr = some ⟨.malformedTable, symAddr, 4⟩ := by
  rw [checkEntry, if_neg hc, if_pos (by simpa using hs)]

theorem checkEntry_clash (hc : code ≠ []) (hs : sym ∉ es.map DtEntry.sym)
    (hp : ∃ e ∈ es, e.code <+: code ∨ code <+: e.code) :
    checkEntry es sym code symAddr endAddr = some ⟨.malformedTable, symAddr, 5⟩ := by
  rw [checkEntry, if_neg hc, if_neg (by simpa using hs), if_pos (by simpa [clash_iff] using hp)]

theorem checkEntry_eq_none_iff :
    checkEntry es sym code symAddr endAddr = none ↔
      code ≠ [] ∧ sym ∉ es.map DtEntry.sym ∧ ∀ e ∈ es, ¬ e.code <+: code ∧ ¬ code <+: e.code := by
  by_cases hc : code = []
  · simp [hc, checkEntry_empty]
  by_cases hs : sym ∈ es.map DtEntry.sym
  · simp [checkEntry_duplicate hc hs, hs]
  by_cases hp : ∃ e ∈ es, e.code <+: code ∨ code <+: e.code
  · rw [checkEntry_clash hc hs hp]
    obtain ⟨e, he, hpre⟩ := hp
    exact ⟨nofun, fun ⟨_, _, hno⟩ => (hpre.elim (hno e he).1 (hno e he).2).elim⟩
  · rw [checkEntry, if_neg hc, if_neg (by simpa using hs), if_neg (by simpa [clash_iff] using hp)]
    exact ⟨fun _ => ⟨hc, hs, fun e he => not_or.1 fun hpre => hp ⟨e, he, hpre⟩⟩, fun _ => rfl⟩

end

/-- Distinct symbols are at most 256. -/
theorem length_le_256_of_nodup {l : List Byte} (h : l.Nodup) : l.length ≤ 256 :=
  length_allBytes ▸ (h.subperm fun b _ => mem_allBytes b).length_le

theorem prefixFree_concat {cs : List Bits} {c : Bits} :
    PrefixFree (cs ++ [c]) ↔ PrefixFree cs ∧ ∀ d ∈ cs, ¬ d <+: c ∧ ¬ c <+: d := by
  rw [PrefixFree, List.pairwise_append]
  simp

theorem nodup_concat {l : List Byte} : (l ++ [c]).Nodup ↔ l.Nodup ∧ c ∉ l := by
  rw [List.nodup_append_comm, List.singleton_append, List.nodup_cons, and_comm]

theorem DtSound.sublist (h : DtSound es) (hsub : ds.Sublist es) : DtSound ds where
  size := hsub.length_le.trans h.size
  syms := h.syms.sublist (hsub.map _)
  lengths e he := h.lengths e (hsub.subset he)
  codes := h.codes.sublist (hsub.map _)

/-- An entry whose code has at most 255 bits extends a sound table exactly when it passes the checks (R168, R171). -/
theorem dtSound_concat_iff {symAddr endAddr : Nat} :
    DtSound (es ++ [⟨sym, code⟩]) ↔
      DtSound es ∧ code.length ≤ 255 ∧ checkEntry es sym code symAddr endAddr = none := by
  rw [checkEntry_eq_none_iff]
  constructor
  · intro h
    have ⟨_, hsyms, hlens, hcodes⟩ := h
    rw [List.map_append] at hsyms hcodes
    obtain ⟨hpos, hlen⟩ := hlens _ (List.mem_append_right es List.mem_cons_self)
    exact ⟨h.sublist (List.sublist_append_left _ _), hlen, List.length_pos_iff.1 hpos, (nodup_concat.1 hsyms).2,
      List.forall_mem_map.1 (prefixFree_concat.1 hcodes).2⟩
  · rintro ⟨⟨-, hsyms, hlens, hcodes⟩, hlen, hne, hsym, hcode⟩
    have hnodup : ((es ++ [(⟨sym, code⟩ : DtEntry)]).map DtEntry.sym).Nodup := by
      rw [List.map_append]
      exact nodup_concat.2 ⟨hsyms, hsym⟩
    refine ⟨?_, hnodup, ?_, ?_⟩
    · simpa using length_le_256_of_nodup hnodup
    · exact List.forall_mem_append.2 ⟨hlens, List.forall_mem_singleton.2 ⟨List.length_pos_iff.2 hne, hlen⟩⟩
    · rw [List.map_append]
      exact prefixFree_concat.2 ⟨hcodes, List.forall_mem_map.2 hcode⟩

/-! ### The outer loop -/

section
variable (hs : portRead p m a = .ok sym)
include hs

theorem parseLoop_code_error (hc : parseCode p m (a + 1) left [] = .error r) :
    parseLoop p m (turns + 1) a (left + 1) es = .error r := by
  rw [parseLoop, hs]
  simp only [hc]

theorem parseLoop_refused (hc : parseCode p m (a + 1) left [] = .ok (code, sep, rest))
    (he : checkEntry es sym code a (a + 1 + code.length) = some r) :
    parseLoop p m (turns + 1) a (left + 1) es = .error r := by
  rw [parseLoop, hs]
  simp only [hc, he]

/-- An entry that the segment's end ends is the last (R168). -/
theorem parseLoop_last (hc : parseCode p m (a + 1) left [] = .ok (code, false, rest))
    (he : checkEntry es sym code a (a + 1 + code.length) = none) :
    parseLoop p m (turns + 1) a (left + 1) es = .ok (es ++ [⟨sym, code⟩]) := by
  rw [parseLoop, hs]
  simp only [hc, he]
  rfl

/-- An entry that a separator ends asks for another one (R168, R169 reason 6). -/
theorem parseLoop_separated (hc : parseCode p m (a + 1) left [] = .ok (code, true, rest + 1))
    (he : checkEntry es sym code a (a + 1 + code.length) = none) :
    parseLoop p m (turns + 1) a (left + 1) es =
      if rest = 0 then .error ⟨.malformedTable, a + 1 + code.length + 1, 6⟩
      else parseLoop p m turns (a + 1 + code.length + 1) rest (es ++ [⟨sym, code⟩]) := by
  rw [parseLoop, hs]
  simp only [hc, he, if_true, Nat.add_eq_right, Nat.add_sub_cancel]

end

/-- What a turn that goes well can do: it has read an entry that passes the checks, and the entries are all there or
the loop goes on behind it. -/
theorem parseLoop_cases (h : parseLoop p m (turns + 1) a (left + 1) es = .ok ds) :
    ∃ sym code, code.length ≤ 255 ∧ checkEntry es sym code a (a + 1 + code.length) = none ∧
      (ds = es ++ [⟨sym, code⟩] ∨ ∃ a' left', parseLoop p m turns a' left' (es ++ [⟨sym, code⟩]) = .ok ds) := by
  rw [parseLoop] at h
  split at h
  · cases h
  · split at h
    · cases h
    · split at h
      · cases h
      · refine ⟨_, _, parseCode_length_le ‹_› (Nat.zero_le _), ‹_›, ?_⟩
        split at h
        · split at h
          · cases h
          · exact .inr ⟨_, _, h⟩
        · cases h
          exact .inl rfl

/-- What every entry that passes the checks keeps of the entries so far, the loop keeps. -/
theorem parseLoop_keeps {P : List DtEntry → Prop}
    (hstep : ∀ es sym code symAddr endAddr, code.length ≤ 255 → checkEntry es sym code symAddr endAddr = none →
      P es → P (es ++ [⟨sym, code⟩]))
    (hes : P es) (h : parseLoop p m turns a left es = .ok ds) : P ds := by
  induction turns generalizing a left es with
  | zero =>
    cases h
    exact hes
  | succ turns ih =>
    cases left with
    | zero =>
      cases h
      exact hes
    | succ left =>
      obtain ⟨sym, code, hlen, hcheck, rfl | ⟨a', left', h⟩⟩ := parseLoop_cases h
      · exact hstep _ _ _ _ _ hlen hcheck hes
      · exact ih (hstep _ _ _ _ _ hlen hcheck hes) h

theorem parseLoop_prefix (h : parseLoop p m turns a left es = .ok ds) : es <+: ds :=
  parseLoop_keeps (P := (es <+: ·)) (fun _ _ _ _ _ _ _ hp => hp.trans (List.prefix_append _ _)) List.prefix_rfl h

theorem dtSound_nil : DtSound [] := ⟨Nat.zero_le _, List.nodup_nil, nofun, .nil⟩

/-- The entries of a segment that parses are sound: each of them has passed the checks (R171). -/
theorem parseSegment_sound (h : parseSegment p m a n = .ok ds) : DtSound ds :=
  parseLoop_keeps (fun _ _ _ _ _ hlen hcheck hes => dtSound_concat_iff.2 ⟨hes, hlen, hcheck⟩) dtSound_nil h

/-- A segment of at least one byte that parses has an entry (R168). -/
theorem parseSegment_eq_nil (h : parseSegment p m a n = .ok []) : n = 0 := by
  cases n with
  | zero => rfl
  | succ n =>
    obtain ⟨sym, code, -, -, h | ⟨a', left', h⟩⟩ := parseLoop_cases h
    · cases h
    · exact absurd (List.eq_nil_of_prefix_nil (parseLoop_prefix h)) (List.cons_ne_nil _ _)

/-! ### Entries in memory -/

@[simp] theorem length_segEntry (sym : Byte) (code : Bits) : (segEntry sym code).length = code.length + 1 := by
  simp [segEntry]

theorem length_segEntry_append (sym : Byte) (code : Bits) (bs : List Byte) :
    (segEntry sym code ++ bs).length = code.length + bs.length + 1 := by
  rw [List.length_append, length_segEntry, Nat.add_right_comm]

/-- At an entry the symbol is read, and the inner loop comes to what stands behind the code. -/
theorem segEntry_read (h : Delivers p m a (segEntry sym code ++ bs)) (hlen : code.length ≤ 255) :
    portRead p m a = .ok sym ∧ Delivers p m (a + 1 + code.length) bs ∧
      parseCode p m (a + 1) (code.length + bs.length) [] = parseCode p m (a + 1 + code.length) bs.length code := by
  obtain ⟨hsym, h⟩ := delivers_cons.1 h
  obtain ⟨hcode, hbs⟩ := delivers_append.1 h
  rw [List.length_map] at hbs
  exact ⟨hsym, hbs, parseCode_chars hcode (by simpa using hlen)⟩

/-- Where the segment ends or a separator stands, the inner loop ends (R168). -/
theorem parseCode_ended (hend : bs = [] ∨ bs = 0x00#8 :: cs) (h : Delivers p m a bs) :
    ∃ sep, parseCode p m a bs.length acc = .ok (acc, sep, bs.length) := by
  obtain rfl | rfl := hend
  · exact ⟨false, rfl⟩
  · exact ⟨true, parseCode_separator (delivers_cons.1 h).1⟩

/-- An entry that fails a check, at the segment's end or with its separator, ends the parse with that check's error. -/
theorem parseLoop_bad_entry (hend : bs = [] ∨ bs = 0x00#8 :: cs) (h : Delivers p m a (segEntry sym code ++ bs))
    (hlen : code.length ≤ 255) (he : checkEntry es sym code a (a + 1 + code.length) = some r) :
    parseLoop p m (turns + 1) a (segEntry sym code ++ bs).length es = .error r := by
  obtain ⟨hsym, hbs, hcode⟩ := segEntry_read h hlen
  obtain ⟨sep, hsep⟩ := parseCode_ended (acc := code) hend hbs
  rw [length_segEntry_append]
  exact parseLoop_refused hsym (hcode.trans hsep) he

/-- A byte that is neither a character nor a separator, behind a symbol and at most 255 characters (R169 reason 1). -/
theorem parseLoop_badChar (h : Delivers p m a (segEntry sym code ++ c :: bs)) (hlen : code.length ≤ 255)
    (h0 : c ≠ 0x00#8) (h30 : c ≠ 0x30#8) (h31 : c ≠ 0x31#8) :
    parseLoop p m (turns + 1) a (segEntry sym code ++ c :: bs).length es =
      .error ⟨.malformedTable, a + 1 + code.length, 1⟩ := by
  obtain ⟨hsym, hbs, hcode⟩ := segEntry_read h hlen
  rw [length_segEntry_append]
  exact parseLoop_code_error hsym (hcode.trans (parseCode_badChar (delivers_cons.1 hbs).1 h0 h30 h31))

/-- A 256th character is refused where it stands (R169 reason 3). -/
theorem parseLoop_tooLong (h : Delivers p m a (segEntry sym (code ++ [b]) ++ bs)) (hlen : code.length = 255) :
    parseLoop p m (turns + 1) a (segEntry sym (code ++ [b]) ++ bs).length es =
      .error ⟨.malformedTable, a + 256, 3⟩ := by
  have hsplit : segEntry sym (code ++ [b]) ++ bs = segEntry sym code ++ codeChar b :: bs := by simp [segEntry]
  have haddr : a + 1 + code.length = a + 256 := by omega
  rw [hsplit] at h ⊢
  obtain ⟨hsym, hbs, hcode⟩ := segEntry_read h hlen.le
  rw [length_segEntry_append, ← haddr]
  exact parseLoop_code_error hsym (hcode.trans (parseCode_tooLong (delivers_cons.1 hbs).1 hlen))

/-- An entry that extends a sound table, with its separator: another one is asked for. -/
theorem parseLoop_separated_entry (hes : DtSound (es ++ [⟨sym, code⟩]))
    (h : Delivers p m a (segEntry sym code ++ 0x00#8 :: bs)) :
    parseLoop p m (turns + 1) a (segEntry sym code ++ 0x00#8 :: bs).length es =
      if bs.length = 0 then .error ⟨.malformedTable, a + 1 + code.length + 1, 6⟩
      else parseLoop p m turns (a + 1 + code.length + 1) bs.length (es ++ [⟨sym, code⟩]) := by
  obtain ⟨-, hlen, hcheck⟩ := dtSound_concat_iff.1 hes
  obtain ⟨hsym, hbs, hcode⟩ := segEntry_read h hlen
  rw [length_segEntry_append]
  exact parseLoop_separated hsym (hcode.trans (parseCode_separator (delivers_cons.1 hbs).1)) hcheck

/-- An entry that extends a sound table, at the segment's end: the entries are all there. -/
theorem parseLoop_last_entry (hes : DtSound (es ++ [⟨sym, code⟩])) (h : Delivers p m a (segEntry sym code)) :
    parseLoop p m (turns + 1) a (segEntry sym code).length es = .ok (es ++ [⟨sym, code⟩]) := by
  obtain ⟨-, hlen, hcheck⟩ := dtSound_concat_iff.1 hes
  obtain ⟨hsym, -, hcode⟩ := segEntry_read (bs := []) (by rwa [List.append_nil]) hlen
  rw [length_segEntry]
  exact parseLoop_last hsym (hcode.trans parseCode_end) hcheck

/-- The bytes of entries that each have their separator (R87). -/
def sepEntries (es : List DtEntry) : List Byte := es.flatMap fun e => segEntry e.sym e.code ++ [0x00#8]

theorem sepEntries_cons_append (e : DtEntry) (es : List DtEntry) (bs : List Byte) :
    sepEntries (e :: es) ++ bs = segEntry e.sym e.code ++ 0x00#8 :: (sepEntries es ++ bs) := by
  simp [sepEntries]

theorem sepEntries_concat (es : List DtEntry) (e : DtEntry) :
    sepEntries (es ++ [e]) = sepEntries es ++ (segEntry e.sym e.code ++ [0x00#8]) := by
  simp [sepEntries]

theorem length_sepEntries_cons (e : DtEntry) (es : List DtEntry) :
    (sepEntries (e :: es)).length = 1 + e.code.length + 1 + (sepEntries es).length := by
  have hsplit := congrArg List.length (sepEntries_cons_append e es [])
  rw [List.append_nil, List.append_nil, length_segEntry_append, List.length_cons] at hsplit
  omega

/-- Over sound entries with their separators, and with bytes to come behind them, the loop adds the entries. -/
theorem parseLoop_entries (hes : DtSound (es ++ ds)) (h : Delivers p m a (sepEntries ds ++ tail)) (ht : tail ≠ []) :
    parseLoop p m (ds.length + turns) a (sepEntries ds ++ tail).length es =
      parseLoop p m turns (a + (sepEntries ds).length) tail.length (es ++ ds) := by
  induction ds generalizing a es with
  | nil => simp [sepEntries]
  | cons e ds ih =>
    have hsplit : es ++ e :: ds = es ++ [e] ++ ds := by simp
    rw [hsplit] at hes ⊢
    rw [sepEntries_cons_append] at h ⊢
    have hbehind := (delivers_cons.1 (segEntry_read h (hes.lengths e (by simp)).2).2.1).2
    have hne : (sepEntries ds ++ tail).length ≠ 0 := by simp [ht]
    rw [List.length_cons, Nat.add_right_comm,
      parseLoop_separated_entry (hes.sublist (List.sublist_append_left _ _)) h, if_neg hne,
      ih hes hbehind, length_sepEntries_cons]
    simp only [Nat.add_assoc]

theorem length_le_length_sepEntries (es : List DtEntry) : es.length ≤ (sepEntries es).length := by
  induction es with
  | nil => exact Nat.zero_le _
  | cons e es ih =>
    rw [length_sepEntries_cons, List.length_cons]
    omega

/-- A segment that begins with sound entries, each with its separator, is parsed from behind them. -/
theorem parseSegment_entries (hes : DtSound es) (h : Delivers p m a (sepEntries es ++ tail)) (ht : tail ≠ []) :
    ∃ turns, parseSegment p m a (sepEntries es ++ tail).length =
      parseLoop p m (turns + 1) (a + (sepEntries es).length) tail.length es := by
  have hpos := List.length_pos_iff.2 ht
  have hle := length_le_length_sepEntries es
  obtain ⟨turns, hturns⟩ : ∃ turns, (sepEntries es ++ tail).length = es.length + (turns + 1) :=
    ⟨(sepEntries es ++ tail).length - es.length - 1, by rw [List.length_append]; omega⟩
  have hloop := parseLoop_entries (es := []) (turns := turns + 1) hes h ht
  rw [← hturns] at hloop
  exact ⟨turns, hloop⟩

theorem entriesBytes_cons (e : DtEntry) (hne : es ≠ []) :
    entriesBytes (e :: es) = segEntry e.sym e.code ++ 0x00#8 :: entriesBytes es := by
  obtain ⟨d, ds, rfl⟩ := List.exists_cons_of_ne_nil hne
  simp [entriesBytes, List.intercalate_cons_cons]

/-- A segment is its entries but the last with their separators, and the last one (R87). -/
theorem entriesBytes_concat (es : List DtEntry) (e : DtEntry) :
    entriesBytes (es ++ [e]) = sepEntries es ++ segEntry e.sym e.code := by
  induction es with
  | nil => simp [entriesBytes, sepEntries, List.intercalate]
  | cons d es ih =>
    rw [List.cons_append, entriesBytes_cons d (List.concat_ne_nil e es), ih, sepEntries_cons_append]

theorem entriesBytes_eq_nil : entriesBytes es = [] ↔ es = [] := by
  refine ⟨fun h => ?_, fun h => h ▸ rfl⟩
  obtain rfl | ⟨ds, e, rfl⟩ := List.eq_nil_or_concat' es
  · rfl
  · rw [entriesBytes_concat] at h
    cases (List.append_eq_nil_iff.1 h).2

/-- A segment of sound entries parses into them (R168). -/
theorem parseSegment_entriesBytes (hes : DtSound es) (h : Delivers p m a (entriesBytes es)) :
    parseSegment p m a (entriesBytes es).length = .ok es := by
  obtain rfl | ⟨ds, e, rfl⟩ := List.eq_nil_or_concat' es
  · rfl
  · rw [entriesBytes_concat] at h ⊢
    obtain ⟨turns, hparse⟩ := parseSegment_entries (hes.sublist (List.sublist_append_left _ _)) h (List.cons_ne_nil _ _)
    exact hparse.trans (parseLoop_last_entry hes (delivers_append.1 h).2)

end Sys2Proof.Machine
end

section
/-! SERIALIZE (45_filecodec.md R161): the container it writes and how the command ends. -/

namespace Sys2Proof.Machine

variable {p : Platform} {m : Memory} {s : State} {o : Operands} {r : Raise}

theorem Writable.mono {a n b k : Nat} (h : Writable p a n) (hl : a ≤ b) (hr : b + k ≤ a + n) : Writable p b k :=
  fun x h1 h2 => h x (by omega) (by omega)

/-- SERIALIZE needs both ranges in order and apart, and a code table (R83, R207). -/
theorem precheck_serialize (hs : SrcOk s.operands) (hd : DstOk s.operands) (ha : Apart s.operands)
    (hf : s.flags.etableValid = true) : precheck .serialize s.flags s.operands = none := by
  refine precheck_eq_none.2 ⟨fun _ => hs, fun _ => hd, fun _ _ => ha, fun k hk => ?_⟩
  cases hk
  exact hf

/-- The header, the segment and the source bytes, one behind the other, are written (R161). -/
theorem serializeRange_ok (ha : Apart o) (hcap : serializedLen s o ≤ o.dstCap.toNat)
    (hr : Readable s.platform o.srcAddr.toNat o.srcLen.toNat)
    (hw : Writable s.platform o.dstAddr.toNat (serializedLen s o)) :
    serializeRange s o = .ok (s.mem.writeAll o.dstAddr.toNat
      (header o.origLen (segBytes s.tables.codes).length ++ segBytes s.tables.codes ++
        s.mem.bytes o.srcAddr.toNat o.srcLen.toNat)) := by
  rw [serializeRange, if_neg (Nat.not_lt.2 hcap)]
  unfold serializedLen at hcap hw
  have hhead : Writable s.platform o.dstAddr.toNat (header o.origLen (segBytes s.tables.codes).length).length :=
    hw.mono (Nat.le_refl _) (by rw [length_header]; omega)
  have hseg : Writable s.platform (o.dstAddr.toNat + 16) (segBytes s.tables.codes).length :=
    hw.mono (by omega) (by omega)
  have hcopy := fun m => portCopy_ok (m := m) hr (dst := o.dstAddr.toNat + 16 + (segBytes s.tables.codes).length)
    (hw.mono (by omega) (by omega)) (by omega)
  simp only [portWriteBytes_ok hhead, portWriteBytes_ok hseg, hcopy]
  rw [Memory.writeAll_append, Memory.writeAll_append, List.length_append, length_header, Nat.add_assoc]
  congr 2
  refine Memory.bytes_congr fun i hi => ?_
  rw [Memory.read_writeAll_outside _ _ _ (by omega), Memory.read_writeAll_outside _ _ _ (by rw [length_header]; omega)]

/-- A container that does not fit is refused before any access, with the bytes it needs (R208). -/
theorem serializeRange_capacity (h : o.dstCap.toNat < serializedLen s o) :
    serializeRange s o = .error ⟨.capacityExceeded, o.dstAddr.toNat, serializedLen s o⟩ := by
  rw [serializeRange, if_pos h]

/-- An error behind the pre-checks of a command with a destination range opens destination bytes only (R205 (c)). -/
theorem raiseOpen_dstOnly (hd : DstOk s.operands) (r : Raise) :
    ∃ m n, s.DstOnly m ∧
      s.raiseOpen s.operands r = State.ended { s with mem := m, draws := n } r.code r.addr r.info 0 :=
  ⟨_, (s.openDst s.operands).draws, openDst_dstOnly s hd.2, rfl⟩

/-- A SERIALIZE whose rule gives a memory stores it and the segment's length (R161). -/
theorem exec_serialize_ok (hp : precheck .serialize s.flags s.operands = none)
    (hr : serializeRange s s.operands = .ok m) :
    exec .serialize s = .next (State.ended (s.storeSerialized m) .ok 0 0 (serializedLen s s.operands)) := by
  rw [exec, execSerialize, checked_ok hp, hr]
  rfl

/-- A SERIALIZE whose rule raises ends with that error, and opens destination bytes only (R205 (c)). -/
theorem exec_serialize_error (hp : precheck .serialize s.flags s.operands = none)
    (hr : serializeRange s s.operands = .error r) :
    ∃ m n, s.DstOnly m ∧
      exec .serialize s = .next (State.ended { s with mem := m, draws := n } r.code r.addr r.info 0) := by
  obtain ⟨-, hd, -, -⟩ := precheck_eq_none.1 hp
  obtain ⟨m, n, hm, hend⟩ := raiseOpen_dstOnly (hd rfl) r
  refine ⟨m, n, hm, ?_⟩
  rw [exec, execSerialize, checked_ok hp, hr]
  exact congrArg _ hend

/-- Settles O44: the three writes of the rule, and its capacity check. -/
theorem serializeWritesTheContainer : Obligations.SerializeWritesTheContainer := by
  intro s hs hd ha hf
  have hp := precheck_serialize hs hd ha hf
  exact ⟨fun hcap hr hw => exec_serialize_ok hp (serializeRange_ok ha hcap hr hw),
    fun hcap => exec_serialize_error hp (serializeRange_capacity hcap)⟩

end Sys2Proof.Machine
end

section
/-! DESERIALIZE (45_filecodec.md R163-R172): the container's header, what the command does with a container, the segment
of a code table, and what any DESERIALIZE leaves in the decoding table. -/

namespace Sys2Proof.Machine

variable {p : Platform} {m : Memory} {s t : State} {src len n : Nat} {orig : Word} {es : List DtEntry}
  {hd seg tail : List Byte} {r : Raise}

/-! ### The header -/

/-- original_data_length of the container at `src` (R85). -/
def origAt (m : Memory) (src : Nat) : Nat := u64le (m.bytes src 8)

theorem parseContainer_short (h : len < 16) : parseContainer p m src len = .error ⟨.truncatedFile, src + len, 16⟩ := by
  rw [parseContainer, if_pos h]

theorem Memory.take_bytes (m : Memory) (a k n : Nat) : (m.bytes a (k + n)).take k = m.bytes a k := by
  rw [Memory.bytes, Memory.bytes, ← List.map_take, List.take_range, Nat.min_eq_left (Nat.le_add_right k n)]

/-- A header that is read gives the two lengths it holds (R85, R163, R165). -/
theorem parseContainer_header (hlen : 16 ≤ len) (hread : portReadBytes p m src 16 = .ok hd) :
    parseContainer p m src len =
      if segLenAt m src > len - 16 then
        .error ⟨.truncatedFile, src + len, min (16 + segLenAt m src) (Config.addrSpace - 1)⟩
      else if segLenAt m src = 0 ∧ origAt m src > 0 then .error ⟨.malformedTable, src + 16, 7⟩
      else (parseSegment p m (src + 16) (segLenAt m src)).map (⟨origAt m src, segLenAt m src, ·⟩) := by
  have horig : u64le (hd.take 8) = origAt m src := by
    rw [portReadBytes_cases hread]
    exact congrArg u64le (Memory.take_bytes m src 8 8)
  rw [parseContainer, if_neg (Nat.not_lt.2 hlen), hread]
  simp only [horig, segLenAt_of_header hread]
  refine if_congr Iff.rfl rfl (if_congr Iff.rfl rfl ?_)
  cases parseSegment p m (src + 16) (segLenAt m src) <;> rfl

/-- A container in memory, its segment empty only with original length 0, is its header's lengths and what its segment
parses into. -/
theorem parseContainer_of_delivers (hfit : 16 + seg.length ≤ len) (hlt : seg.length < 2 ^ 64)
    (h : Delivers p m src (header orig seg.length ++ seg)) (hnil : seg = [] → orig = 0#64) :
    parseContainer p m src len = (parseSegment p m (src + 16) seg.length).map (⟨orig.toNat, seg.length, ·⟩) := by
  obtain ⟨hhead, -⟩ := delivers_append.1 h
  obtain ⟨hfirst, hsecond⟩ := delivers_append.1 hhead
  have horig : origAt m src = orig.toNat := by
    rw [← u64le_le64, portReadBytes_cases hfirst, length_le64, origAt]
  have hseg : segLenAt m src = seg.length := by
    rw [length_le64] at hsecond
    have hval := congrArg u64le (portReadBytes_cases hsecond)
    rw [u64le_le64, BitVec.toNat_ofNat, Nat.mod_eq_of_lt hlt, length_le64] at hval
    exact hval.symm
  rw [Delivers, length_header] at hhead
  rw [parseContainer_header (by omega) hhead, horig, hseg, if_neg (by omega), if_neg ?_]
  rintro ⟨hz, hpos⟩
  rw [hnil (List.length_eq_zero_iff.1 hz)] at hpos
  exact absurd hpos (by decide)

/-! ### The command -/

/-- DESERIALIZE needs a source range in order (R83, R207). -/
theorem precheck_deserialize (h : SrcOk s.operands) : precheck .deserialize s.flags s.operands = none :=
  precheck_eq_none.2 ⟨fun _ => h, nofun, nofun, nofun⟩

theorem exec_deserialize_ok {c : Container} (hs : SrcOk s.operands)
    (h : parseContainer s.platform s.mem s.operands.srcAddr.toNat s.operands.srcLen.toNat = .ok c) :
    exec .deserialize s = .next (((s.storeDt c.entries).storeParsed s.operands c).ended .ok 0 0 0) := by
  rw [exec, execDeserialize, checked_ok (precheck_deserialize hs), h]
  rfl

theorem exec_deserialize_error (hs : SrcOk s.operands)
    (h : parseContainer s.platform s.mem s.operands.srcAddr.toNat s.operands.srcLen.toNat = .error r) :
    exec .deserialize s = .next (s.dropDt.ended r.code r.addr r.info 0) := by
  rw [exec, execDeserialize, checked_ok (precheck_deserialize hs), h]
  rfl

/-- Settles O46: the checks of the header, in the order of R163 and R165. -/
theorem deserializeChecksTheHeader : Obligations.DeserializeChecksTheHeader := by
  refine fun s hs => ⟨fun hlen => exec_deserialize_error hs (parseContainer_short hlen), fun hlen hr => ?_⟩
  have hparse := parseContainer_header hlen (portReadBytes_ok (m := s.mem) hr)
  refine ⟨fun hcut => ?_, fun hseg horig => ?_, fun hseg horig => ?_⟩
  · exact exec_deserialize_error hs (hparse.trans (if_pos hcut))
  · rw [segLenAt, hseg, origAt, horig, if_neg (by omega), if_neg (by omega)] at hparse
    exact ⟨_, exec_deserialize_ok hs hparse, rfl, rfl, rfl⟩
  · rw [segLenAt, hseg, if_neg (by omega), if_pos ⟨rfl, horig⟩] at hparse
    exact exec_deserialize_error hs hparse

/-- Behind the header the port delivers the segment. -/
theorem delivers_segment (h : Delivers p m src (header orig n ++ seg)) : Delivers p m (src + 16) seg := by
  have hseg := (delivers_append.1 h).2
  rwa [length_header] at hseg

/-- Settles O45: the segment parses into its entries, and the header holds the lengths. -/
theorem deserializeReadsTheEntries : Obligations.DeserializeReadsTheEntries := by
  intro s es orig hs hes hnil n hfit hbytes hr
  have h : Delivers s.platform s.mem s.operands.srcAddr.toNat (header orig n ++ entriesBytes es) :=
    delivers_of_bytes hr hbytes
  have hempty : entriesBytes es = [] → orig = 0#64 := fun hb => hnil (entriesBytes_eq_nil.1 hb)
  have hparse := parseContainer_of_delivers hfit (by omega) h hempty
  rw [parseSegment_entriesBytes hes (delivers_segment h)] at hparse
  rw [exec_deserialize_ok hs hparse, State.storeParsed, BitVec.ofNat_toNat, BitVec.setWidth_eq]
  rfl

/-- A parse that refuses what stands behind sound entries, each with its separator, is the command's end (R169). -/
theorem exec_deserialize_malformed {addr reason : Nat} (hs : SrcOk s.operands) (hes : DtSound es) (ht : tail ≠ [])
    (hfit : 16 + (sepEntries es ++ tail).length ≤ s.operands.srcLen.toNat)
    (h : Delivers s.platform s.mem s.operands.srcAddr.toNat
      (header orig (sepEntries es ++ tail).length ++ (sepEntries es ++ tail)))
    (hbad : ∀ turns, Delivers s.platform s.mem (s.operands.srcAddr.toNat + 16 + (sepEntries es).length) tail →
      parseLoop s.platform s.mem (turns + 1) (s.operands.srcAddr.toNat + 16 + (sepEntries es).length) tail.length es =
        .error ⟨.malformedTable, addr, reason⟩) :
    exec .deserialize s = .next (s.dropDt.ended .malformedTable addr reason 0) := by
  have hseg := delivers_segment h
  obtain ⟨turns, hloop⟩ := parseSegment_entries hes hseg ht
  have hparse := parseContainer_of_delivers hfit (by omega) h (fun hnil => absurd (List.append_eq_nil_iff.1 hnil).2 ht)
  rw [hloop, hbad turns (delivers_append.1 hseg).2] at hparse
  exact exec_deserialize_error hs hparse

/-- Settles O47: each tail is one that the loop refuses; where there is none, it refuses the last separator. -/
theorem malformedTablesAreReportedByReason : Obligations.MalformedTablesAreReportedByReason := by
  intro s es orig tail hs hes good n p hfit hbytes hr malformed
  have hlen : n = (sepEntries es ++ tail).length := List.length_append.symm
  have h : Delivers s.platform s.mem s.operands.srcAddr.toNat (header orig n ++ (sepEntries es ++ tail)) := by
    refine delivers_of_bytes hr (hbytes.trans ?_)
    rw [List.append_assoc]
    rfl
  rw [hlen] at hfit h
  have hentry : ∀ sym code rest addr reason,
      (tail = segEntry sym code ∨ tail = segEntry sym code ++ 0x00#8 :: rest) → code.length ≤ 255 →
      checkEntry es sym code p (p + 1 + code.length) = some ⟨.malformedTable, addr, reason⟩ →
      malformed addr reason := by
    intro sym code rest addr reason ht hcode hcheck
    obtain ⟨bs, hend, rfl⟩ : ∃ bs, (bs = [] ∨ bs = 0x00#8 :: rest) ∧ tail = segEntry sym code ++ bs :=
      ht.elim (fun ht => ⟨[], .inl rfl, by rw [ht, List.append_nil]⟩) (⟨_, .inr rfl, ·⟩)
    exact exec_deserialize_malformed hs hes (List.cons_ne_nil _ _) hfit h fun turns hd =>
      parseLoop_bad_entry hend hd hcode hcheck
  refine ⟨?badChar, ?empty, ?tooLong, ?failsCheck, ?separator⟩
  case badChar =>
    rintro sym code c rest rfl hcode h0 h30 h31
    exact exec_deserialize_malformed hs hes (List.cons_ne_nil _ _) hfit h fun turns hd =>
      parseLoop_badChar hd hcode h0 h30 h31
  case empty => exact fun sym rest ht => hentry sym [] rest _ _ ht (Nat.zero_le _) checkEntry_empty
  case tooLong =>
    rintro sym code rest rfl hcode
    obtain ⟨bits, b, rfl⟩ := (List.eq_nil_or_concat' code).resolve_left (by rintro rfl; cases hcode)
    exact exec_deserialize_malformed hs hes (List.cons_ne_nil _ _) hfit h fun turns hd =>
      parseLoop_tooLong hd (by simpa using hcode)
  case failsCheck =>
    intro sym code rest ht hpos hcode
    have hne := List.length_pos_iff.1 hpos
    exact ⟨fun hsym => hentry sym code rest _ _ ht hcode (checkEntry_duplicate hne hsym),
      fun hsym hclash => hentry sym code rest _ _ ht hcode (checkEntry_clash hne hsym hclash)⟩
  case separator =>
    rintro rfl hne
    obtain ⟨ds, e, rfl⟩ := (List.eq_nil_or_concat' es).resolve_left hne
    have hp : p = s.operands.srcAddr.toNat + 16 + (sepEntries ds).length + 1 + e.code.length + 1 := by
      have hgood : good.length = (sepEntries (ds ++ [e])).length := rfl
      rw [sepEntries_concat, List.length_append, length_segEntry_append, List.length_singleton] at hgood
      omega
    rw [List.append_nil, sepEntries_concat] at h hfit
    rw [hp]
    exact exec_deserialize_malformed hs (hes.sublist (List.sublist_append_left _ _)) (List.cons_ne_nil _ _) hfit h
      fun turns hd => (parseLoop_separated_entry hes hd).trans (if_pos rfl)

/-! ### The segment of a code table -/

/-- The segment of a code table is that of its coded entries (R87, R88). -/
theorem segBytes_eq_entriesBytes (codes : Table Bits) : segBytes codes = entriesBytes (codedEntries codes) := by
  simp [segBytes, entriesBytes, coded, codedEntries, Table.entries_eq_map, List.filter_map, Function.comp_def]

/-- The coded entries of a code table are a sound decoding table when its codes have at most 255 bits and none begins
another (R133, R171). -/
theorem dtSound_codedEntries {codes : Table Bits} (hlen : ∀ b, (codes.at b).length ≤ 255)
    (hprefix : ∀ b c, b ≠ c → codes.at b ≠ [] → codes.at c ≠ [] → ¬ codes.at b <+: codes.at c) :
    DtSound (codedEntries codes) := by
  have hsyms : (codedEntries codes).map DtEntry.sym = allBytes.filter fun b => codes.at b != [] := by
    rw [codedEntries, List.map_map]
    exact List.map_id _
  have hnodup : ((codedEntries codes).map DtEntry.sym).Nodup := hsyms ▸ nodup_allBytes.filter _
  have hcoded : ∀ b ∈ allBytes.filter fun b => codes.at b != [], codes.at b ≠ [] := fun b hb => by
    simpa using hb
  refine ⟨by simpa using length_le_256_of_nodup hnodup, hnodup, ?_, ?_⟩
  · exact List.forall_mem_map.2 fun b hb => ⟨List.length_pos_iff.2 (hcoded b hb), hlen b⟩
  · rw [codedEntries, List.map_map, PrefixFree, List.pairwise_map]
    exact (nodup_allBytes.filter _).imp_of_mem fun hb hc hne =>
      ⟨hprefix _ _ hne (hcoded _ hb) (hcoded _ hc), hprefix _ _ hne.symm (hcoded _ hc) (hcoded _ hb)⟩

/-- Settles O48: the coded entries of a count's table are sound, and a segment of sound entries parses into them. -/
theorem writtenSegmentParsesBack : Obligations.WrittenSegmentParsesBack := by
  intro freq p m base hfreq codes hbytes hr
  obtain ⟨-, -, hlen, hprefix, -, -⟩ := codeTableLaws freq hfreq
  rw [segBytes_eq_entriesBytes] at hbytes hr ⊢
  exact parseSegment_entriesBytes (dtSound_codedEntries hlen hprefix) (delivers_of_bytes hr hbytes)

/-! ### The decoding table -/

/-- A container that parses holds what its segment parses into, and its segment is empty only with original length 0
(R165, R167). -/
theorem parseContainer_cases {c : Container} (h : parseContainer p m src len = .ok c) :
    parseSegment p m (src + 16) c.segLen = .ok c.entries ∧ (c.segLen = 0 → c.orig = 0) := by
  unfold parseContainer at h
  split at h
  · cases h
  · split at h
    · cases h
    · dsimp only at h
      split at h
      · cases h
      · split at h
        · cases h
        · have hempty := ‹¬ (_ ∧ _)›
          split at h <;> cases h
          exact ⟨‹_›, fun hseg => Nat.eq_zero_of_not_pos fun hpos => hempty ⟨hseg, hpos⟩⟩

/-- A container that parses holds sound entries, at least one unless its original length is 0 (R171). -/
theorem parseContainer_sound {c : Container} (h : parseContainer p m src len = .ok c) :
    DtSound c.entries ∧ (c.entries = [] → c.orig = 0) := by
  obtain ⟨hparse, hempty⟩ := parseContainer_cases h
  exact ⟨parseSegment_sound hparse, fun hnil => hempty (parseSegment_eq_nil (hnil ▸ hparse))⟩

/-- A step leaves the decoding table as it was, without setting its flag, or leaves it sound. -/
def State.DtKept (s t : State) : Prop :=
  t.tables.dt = s.tables.dt ∧ (t.flags.dtableValid = true → s.flags.dtableValid = true) ∨ DtSound t.tables.dt

/-- Only a DESERIALIZE stage that ends OK writes the decoding table or sets its flag (R47, R48). -/
theorem exec_dtKept {i : Instr} (h : exec i s = .next t) : s.DtKept t := by
  cases i with
  | nop =>
    obtain rfl := execNop_cases h
    exact .inl ⟨rfl, id⟩
  | count =>
    obtain ⟨e, -, rfl⟩ | ⟨-, ⟨bs, -, rfl⟩ | ⟨e, -, rfl⟩⟩ := execCount_cases h <;> exact .inl ⟨rfl, id⟩
  | buildTree =>
    obtain ⟨e, -, rfl⟩ | ⟨-, ⟨-, rfl⟩ | ⟨-, rfl⟩⟩ := execBuildTree_cases h <;> exact .inl ⟨rfl, id⟩
  | buildTable =>
    obtain ⟨e, -, rfl⟩ | ⟨-, rfl⟩ := execBuildTable_cases h <;> exact .inl ⟨rfl, id⟩
  | encode =>
    obtain ⟨e, -, rfl⟩ | ⟨-, ⟨bits, m, -, rfl⟩ | ⟨e, -, rfl⟩⟩ := execEncode_cases h <;> exact .inl ⟨rfl, id⟩
  | decode =>
    obtain ⟨e, -, rfl⟩ | ⟨-, ⟨m, -, rfl⟩ | ⟨e, -, rfl⟩⟩ := execDecode_cases h <;> exact .inl ⟨rfl, id⟩
  | serialize =>
    obtain ⟨e, -, rfl⟩ | ⟨-, ⟨m, -, rfl⟩ | ⟨e, -, rfl⟩⟩ := execSerialize_cases h <;> exact .inl ⟨rfl, id⟩
  | deserialize =>
    obtain ⟨e, -, rfl⟩ | ⟨-, ⟨c, hc, rfl⟩ | ⟨e, -, rfl⟩⟩ := execDeserialize_cases h
    · exact .inl ⟨rfl, id⟩
    · exact .inr (parseContainer_sound hc).1
    · exact .inl ⟨rfl, nofun⟩
  | compress =>
    obtain ⟨e, -, rfl⟩ | ⟨-, ⟨e, -, rfl⟩ | ⟨bs, -, ⟨-, rfl⟩ | ⟨-, rfl⟩⟩⟩ := execCompress_cases h
    · exact .inl ⟨rfl, id⟩
    · exact .inl ⟨rfl, id⟩
    · exact .inl ⟨rfl, id⟩
    · obtain ⟨m, -, ht⟩ | ⟨e, -, ht⟩ := compressTail_cases ((s.storeCounts bs).storeTree.storeCodes) s.operands <;>
        rw [ht] <;> exact .inl ⟨rfl, id⟩
  | decompress =>
    obtain ⟨e, -, rfl⟩ | ⟨-, ⟨e, -, rfl⟩ | ⟨c, hc, ⟨e, -, rfl⟩ | ⟨m, -, rfl⟩⟩⟩ := execDecompress_cases h
    · exact .inl ⟨rfl, id⟩
    · exact .inl ⟨rfl, nofun⟩
    · exact .inr (parseContainer_sound hc).1
    · exact .inr (parseContainer_sound hc).1
  | clear =>
    obtain rfl := execClear_cases h
    exact .inl ⟨rfl, nofun⟩

theorem act_dtKept {i : Input} (h : act s i = .next t) : s.DtKept t := by
  obtain ⟨-, h⟩ | ⟨a, n, v, -, rfl | ⟨r, rfl⟩⟩ | ⟨a, n, -, d, u, k, rfl⟩ | ⟨a, v, -, -, rfl⟩ | ⟨a, -, d, k, rfl⟩ |
    ⟨-, rfl⟩ | ⟨fs, -, rfl⟩ := act_cases h
  · obtain ⟨-, rfl⟩ | ⟨c, i, -, -, h⟩ | ⟨c, r, -, -, rfl⟩ := engineTurn_cases h
    · exact .inl ⟨rfl, id⟩
    · exact exec_dtKept h
    · exact .inl ⟨rfl, id⟩
  · exact .inl ⟨rfl, id⟩
  · obtain ⟨hflags, htables⟩ := writeReg_tables s r v
    exact .inl ⟨by rw [htables], by rw [hflags]; exact id⟩
  · exact .inl ⟨rfl, id⟩
  · exact .inl ⟨rfl, id⟩
  · exact .inl ⟨rfl, id⟩
  · obtain ⟨m, d, h⟩ := applyReset_eq s
    rw [h]
    exact .inr dtSound_nil
  · exact .inl ⟨rfl, id⟩

theorem step_dtKept (h : step s = .next t) : s.DtKept t := by
  obtain ⟨l, i, ha⟩ := step_is_act h
  exact act_dtKept (s := { s with inputs := l }) ha

/-- Settles O58: an OK DESERIALIZE has parsed a container; any other step keeps the table or leaves it sound. -/
theorem decodingTableStaysSound : Obligations.DecodingTableStaysSound := by
  refine ⟨fun s t h hok => ?_, fun s t hs h hf => ?_, fun s t hs h => ?_⟩
  · obtain ⟨e, hp, rfl⟩ | ⟨-, ⟨c, hc, rfl⟩ | ⟨e, he, rfl⟩⟩ := execDeserialize_cases h
    · obtain ⟨hcode | hcode, -⟩ := precheck_code hp <;> cases hcode.symm.trans hok
    · obtain ⟨hsound, hnil⟩ := parseContainer_sound hc
      exact ⟨hsound, fun hdt => congrArg (BitVec.ofNat 64) (hnil hdt)⟩
    · have hcode := parseContainer_code he
      rw [show e.code = .ok from hok] at hcode
      exact absurd hcode (by decide)
  · obtain ⟨hdt, hflag⟩ | h := step_dtKept h
    · exact hdt ▸ hs (hflag hf)
    · exact h
  · obtain ⟨hdt, -⟩ | h := step_dtKept h
    · exact hdt ▸ hs
    · exact h

end Sys2Proof.Machine
end

section
/-! NOP and CLEAR (46_pipeline_control.md R183, R184). -/

namespace Sys2Proof.Machine

/-- Settles O26: neither command has a pre-check that can fail. -/
theorem nopAndClearComplete : Obligations.NopAndClearComplete := by
  intro s
  rw [exec, exec, execNop, execClear, checked_ok (precheck_nop _ _), checked_ok (precheck_clear _ _)]
  exact ⟨rfl, rfl⟩

end Sys2Proof.Machine
end

section
/-! COMPRESS (46_pipeline_control.md R180, R181): the tables of its first three stages, the container it writes, and how
the command ends. -/

namespace Sys2Proof.Machine

variable {s t : State} {o : Operands} {x : List Byte}

/-! ### Writing at the port -/

/-- A byte string in two parts is written one part behind the other. -/
theorem portWriteBytes_append (p : Platform) (m : Memory) (a : Nat) (vs ws : List Byte) :
    portWriteBytes p m a (vs ++ ws) =
      (portWriteBytes p m a vs).bind fun m' => portWriteBytes p m' (a + vs.length) ws := by
  induction vs generalizing m a with
  | nil => rfl
  | cons v vs ih =>
    rw [List.cons_append, portWriteBytes, portWriteBytes]
    cases portWrite p m a v with
    | error e => rfl
    | ok m' =>
      simp only [ih, List.length_cons]
      rw [Nat.add_right_comm, Nat.add_assoc]

/-! ### The tables of a source -/

/-- The code table of a count (R121, R131). -/
abbrev countCodes (freq : Table Word) : Table Bits := buildCodes (buildNodes freq) ((buildNodes freq).length - 1)

/-- A symbol of a source has a count, and no other symbol has one. -/
theorem countBytes_at_ne_zero_iff (hx : x.length < 2 ^ 64) {b : Byte} : (countBytes x).at b ≠ 0#64 ↔ b ∈ x := by
  rw [Ne, BitVec.toNat_eq, countBytes_at_toNat hx, ← Ne, ← List.count_pos_iff, Nat.pos_iff_ne_zero]
  rfl

theorem distinctSyms_pos_iff {freq : Table Word} : 1 ≤ distinctSyms freq ↔ ∃ b, freq.at b ≠ 0#64 := by
  simp [distinctSyms, Nat.succ_le_iff, List.countP_pos_iff]

theorem seeds_countBytes_nil : seeds (countBytes []) = [] := by
  rw [seeds_eq_nil_iff, ← Nat.lt_one_iff, ← Nat.not_le, distinctSyms_pos_iff]
  simp [countBytes_nil]

/-- A source of at least one byte has a symbol (R180). -/
theorem distinctSyms_countBytes_pos (hx : x.length < 2 ^ 64) (hne : x ≠ []) : 1 ≤ distinctSyms (countBytes x) := by
  obtain ⟨b, hb⟩ := List.exists_mem_of_ne_nil x hne
  exact distinctSyms_pos_iff.2 ⟨b, (countBytes_at_ne_zero_iff hx).2 hb⟩

theorem seeds_countBytes_ne_nil (hx : x.length < 2 ^ 64) (hne : x ≠ []) : seeds (countBytes x) ≠ [] := by
  intro hnil
  have := distinctSyms_countBytes_pos hx hne
  have := seeds_eq_nil_iff.1 hnil
  omega

/-- Every symbol of a source has a code (R133). -/
theorem countCodes_at_ne_nil (hx : x.length < 2 ^ 64) {b : Byte} (hb : b ∈ x) :
    (countCodes (countBytes x)).at b ≠ [] := by
  obtain ⟨hcoded, -⟩ := codeTableLaws _ (distinctSyms_countBytes_pos hx (List.ne_nil_of_mem hb))
  exact (hcoded b).2 ((countBytes_at_ne_zero_iff hx).2 hb)

/-- The sum of stage 4 is the length of the coded source (R144, R181). -/
theorem codedBits_countBytes (codes : Table Bits) (hx : x.length ≤ Config.maxLen) :
    codedBits (countBytes x) codes = (codedStream codes x).length := by
  rw [payloadBitsAreCountsTimesLengths codes x hx, codedBits, Table.toList_eq_map, Table.toList_eq_map,
    List.zip_map', List.map_map]
  rfl

/-- The state after stages 1 to 3 over the source `x` (R181). -/
def State.built (s : State) (x : List Byte) : State := (s.storeCounts x).storeTree.storeCodes

/-! ### The container -/

/-- The container of the source `x` under a code table (R85, R86). -/
def containerBytes (orig : Word) (codes : Table Bits) (x : List Byte) : List Byte :=
  header orig (segBytes codes).length ++ segBytes codes ++ pack (codedStream codes x)

theorem length_containerBytes (orig : Word) (codes : Table Bits) (x : List Byte) :
    (containerBytes orig codes x).length =
      16 + (segBytes codes).length + ceilDiv (codedStream codes x).length 8 := by
  simp [containerBytes, Nat.add_assoc]

/-- The length of stage 4 is the container's (R86, R181). -/
theorem containerLen_built (s : State) (orig : Word) (hx : x.length ≤ Config.maxLen) :
    containerLen (s.built x).tables = (containerBytes orig (countCodes (countBytes x)) x).length := by
  rw [length_containerBytes, ← codedBits_countBytes _ hx]
  rfl

/-- A container that does not fit is refused before any access, with the bytes it needs (R181, R208). -/
theorem writeContainer_capacity (h : o.dstCap.toNat < containerLen s.tables) :
    writeContainer s o = .error ⟨.capacityExceeded, o.dstAddr.toNat, containerLen s.tables⟩ := by
  rw [writeContainer, if_pos h]

/-- A container that fits is written in one piece: the second pass over the source reads what the first one did, since
the bytes written before it lie apart (R181). -/
theorem writeContainer_eq (ha : Apart o) (hr : Readable s.platform o.srcAddr.toNat o.srcLen.toNat)
    (hx : s.mem.bytes o.srcAddr.toNat o.srcLen.toNat = x) (hcoded : ∀ b ∈ x, s.tables.codes.at b ≠ [])
    (hbits : codedBits s.tables.freq s.tables.codes = (codedStream s.tables.codes x).length)
    (hcap : containerLen s.tables ≤ o.dstCap.toNat) :
    writeContainer s o =
      portWriteBytes s.platform s.mem o.dstAddr.toNat (containerBytes o.srcLen s.tables.codes x) := by
  rw [writeContainer, if_neg (Nat.not_lt.2 hcap), containerBytes, portWriteBytes_append, portWriteBytes_append]
  unfold containerLen at hcap
  cases hhead : portWriteBytes s.platform s.mem o.dstAddr.toNat
      (header o.srcLen (segBytes s.tables.codes).length) with
  | error e => rfl
  | ok m1 =>
    simp only [Except.bind, length_header]
    cases hseg : portWriteBytes s.platform m1 (o.dstAddr.toNat + 16) (segBytes s.tables.codes) with
    | error e => rfl
    | ok m2 =>
      have hsrc : m2.bytes o.srcAddr.toNat o.srcLen.toNat = x := by
        refine (Memory.bytes_congr fun i hi => ?_).trans hx
        rw [portWriteBytes_sameOutside hseg _ (by omega),
          portWriteBytes_sameOutside hhead _ (by rw [length_header]; omega)]
      have hpack : (pack (codedStream s.tables.codes x)).take (ceilDiv (codedStream s.tables.codes x).length 8) =
          pack (codedStream s.tables.codes x) := List.take_of_length_le (length_pack _).le
      subst hsrc
      simp only [encodeLoop_ok hr hcoded, hbits, hpack, List.length_append, length_header, Nat.add_assoc]

/-! ### The command -/

/-- COMPRESS needs both ranges in order and apart (R83, R207). -/
theorem precheck_compress (hs : SrcOk s.operands) (hd : DstOk s.operands) (ha : Apart s.operands) :
    precheck .compress s.flags s.operands = none :=
  precheck_eq_none.2 ⟨fun _ => hs, fun _ => hd, fun _ _ => ha, nofun⟩

/-- A COMPRESS whose source has no symbol ends behind stage 2 (R180). -/
theorem exec_compress_empty (hp : precheck .compress s.flags s.operands = none)
    (hr : readSource s s.operands = .ok x) (hnil : seeds (countBytes x) = []) :
    exec .compress s = .next ((s.storeCounts x).dropTree.ended .emptyInput 0 0 0) := by
  rw [exec, execCompress, checked_ok hp, hr]
  simp only [if_pos hnil]
  rfl

/-- Any other COMPRESS whose source is read goes on to write the container (R181). -/
theorem exec_compress_tail (hp : precheck .compress s.flags s.operands = none)
    (hr : readSource s s.operands = .ok x) (hne : seeds (countBytes x) ≠ []) :
    exec .compress s = .next ((s.built x).compressTail s.operands) := by
  rw [exec, execCompress, checked_ok hp, hr]
  simp only [if_neg hne]
  rfl

/-- Settles O50: the source is read without an access, and its count has no symbol. -/
theorem compressOfNothingIsEmptyInput : Obligations.CompressOfNothingIsEmptyInput := by
  intro s hs hd hz
  have hlen : s.operands.srcLen.toNat = 0 := by rw [hz]; rfl
  have hr : readSource s s.operands = .ok [] := by rw [readSource, hlen, portReadBytes]
  exact exec_compress_empty (precheck_compress hs hd (.inl hlen)) hr seeds_countBytes_nil

theorem length_source (s : State) : s.source.length = s.operands.srcLen.toNat := Memory.length_bytes ..

theorem length_source_lt (s : State) : s.source.length < 2 ^ 64 := length_source s ▸ s.operands.srcLen.isLt

/-- The code table of the source of `s` (R181). -/
abbrev State.sourceCodes (s : State) : Table Bits := countCodes (countBytes s.source)

/-- What a COMPRESS of `s` writes: the container of its source (R181). -/
def State.container (s : State) : List Byte := containerBytes s.operands.srcLen s.sourceCodes s.source

section
variable (hs : SrcOk s.operands) (hd : DstOk s.operands) (ha : Apart s.operands)
  (hpos : 1 ≤ s.operands.srcLen.toNat)
  (hr : Readable s.platform s.operands.srcAddr.toNat s.operands.srcLen.toNat)

include hs in
theorem containerLen_source : containerLen (s.built s.source).tables = s.container.length :=
  containerLen_built s _ ((length_source s).trans_le hs.1)

include hs hd ha hpos hr in
/-- A COMPRESS of a source of at least one byte, all of it readable, goes on to write the container (R180, R181). -/
theorem exec_compress_source :
    exec .compress s = .next ((s.built s.source).compressTail s.operands) := by
  have hne : s.source ≠ [] := List.length_pos_iff.1 (length_source s ▸ hpos)
  exact exec_compress_tail (precheck_compress hs hd ha) (portReadBytes_ok hr)
    (seeds_countBytes_ne_nil (length_source_lt s) hne)

include hs ha hr in
/-- A container that fits is written in one piece. -/
theorem writeContainer_source (hcap : s.container.length ≤ s.operands.dstCap.toNat) :
    writeContainer (s.built s.source) s.operands =
      portWriteBytes s.platform s.mem s.operands.dstAddr.toNat s.container :=
  writeContainer_eq (s := s.built s.source) ha hr rfl (fun _ => countCodes_at_ne_nil (length_source_lt s))
    (codedBits_countBytes _ ((length_source s).trans_le hs.1)) ((containerLen_source hs).trans_le hcap)

end

/-- Settles O49: the container is written in one piece, or refused before the first write. -/
theorem compressWritesTheContainer : Obligations.CompressWritesTheContainer := by
  intro s hs hd ha hpos hr freq codes seg S total built
  have htotal : s.container.length = total := length_containerBytes ..
  have hbits : codedBits freq codes = S.length := codedBits_countBytes codes ((length_source s).trans_le hs.1)
  rw [exec_compress_source hs hd ha hpos hr, State.compressTail, containerLen_source hs]
  refine ⟨fun hcap hw => ?_, fun hcap => ?_⟩
  · rw [← htotal] at hcap hw
    rw [writeContainer_source hs ha hr hcap, portWriteBytes_ok hw, ← htotal, ← hbits]
    rfl
  · rw [← htotal] at hcap ⊢
    rw [← containerLen_source hs] at hcap ⊢
    rw [writeContainer_capacity hcap]
    obtain ⟨m, n, hm, hend⟩ := raiseOpen_dstOnly (s := s.built s.source) hd
      ⟨.capacityExceeded, s.operands.dstAddr.toNat, containerLen (s.built s.source).tables⟩
    exact ⟨m, n, hm, congrArg _ hend⟩

/-- A pre-check error is no success (R207). -/
theorem precheck_not_ok {i : Instr} {f : Flags} {r : Raise} (h : precheck i f o = some r) : r.code ≠ .ok := by
  obtain ⟨hcode | hcode, -⟩ := precheck_code h <;> simp [hcode]

/-- A COMPRESS that ends OK had a source of at least one byte, in order, all of it readable, and has written its
container, which fits (R181). -/
theorem exec_compress_ok_cases (h : exec .compress s = .next t) (hok : t.code = .ok) :
    SrcOk s.operands ∧ DstOk s.operands ∧ s.source ≠ [] ∧
      Readable s.platform s.operands.srcAddr.toNat s.operands.srcLen.toNat ∧
      s.container.length ≤ s.operands.dstCap.toNat ∧
      t = ((s.built s.source).storeCompressed s.operands
        (s.mem.writeAll s.operands.dstAddr.toNat s.container)).ended .ok 0 0 s.container.length := by
  obtain ⟨e, hp, rfl⟩ | ⟨hp, ⟨e, he, rfl⟩ | ⟨x, hx, ⟨-, rfl⟩ | ⟨hne, rfl⟩⟩⟩ := execCompress_cases h
  · exact absurd hok (precheck_not_ok hp)
  · exact absurd hok (not_success_of_mem_ruleCodes (readSource_code he)).1
  · cases hok
  · have hr := readable_of_portReadBytes hx
    obtain rfl : x = s.source := portReadBytes_cases hx
    obtain ⟨hs, hd, ha, -⟩ := precheck_eq_none.1 hp
    have hs := hs rfl
    have hd := hd rfl
    have ha := ha rfl rfl
    have hlen := containerLen_source hs
    obtain ⟨m, hw, ht⟩ | ⟨e, he, ht⟩ := compressTail_cases (s.built s.source) s.operands
    · have hcap := hlen ▸ (writeContainer_frame hw).1
      rw [writeContainer_source hs ha hr hcap] at hw
      have hnonempty : s.source ≠ [] := fun hnil => hne (by rw [hnil, seeds_countBytes_nil])
      rw [hlen, portWriteBytes_cases hw] at ht
      exact ⟨hs, hd, hnonempty, hr, hcap, ht⟩
    · exact absurd ((congrArg State.code ht).symm.trans hok)
        (not_success_of_mem_ruleCodes (writeContainer_code he hr)).1

end Sys2Proof.Machine
end

section
/-! DECOMPRESS (46_pipeline_control.md R182): how the command ends, and its output over a sound container. -/

namespace Sys2Proof.Machine

variable {p : Platform} {m : Memory} {s : State} {o : Operands} {c : Container} {r : Raise} {dt es : List DtEntry}

/-- DECOMPRESS needs both ranges in order and apart (R83, R207). -/
theorem precheck_decompress (hs : SrcOk s.operands) (hd : DstOk s.operands) (ha : Apart s.operands) :
    precheck .decompress s.flags s.operands = none :=
  precheck_eq_none.2 ⟨fun _ => hs, fun _ => hd, fun _ _ => ha, nofun⟩

/-- A DECOMPRESS whose container does not parse ends with the parse's error (R182). -/
theorem exec_decompress_parse_error (hp : precheck .decompress s.flags s.operands = none)
    (hc : parseContainer s.platform s.mem s.operands.srcAddr.toNat s.operands.srcLen.toNat = .error r) :
    exec .decompress s = .next (s.dropDt.raiseOpen s.operands r) := by
  rw [exec, execDecompress, checked_ok hp, hc]

section
variable (hp : precheck .decompress s.flags s.operands = none)
  (hc : parseContainer s.platform s.mem s.operands.srcAddr.toNat s.operands.srcLen.toNat = .ok c)
include hp hc

/-- A DECOMPRESS whose payload does not decode ends with the decoding's error, the decoding table stored (R182). -/
theorem exec_decompress_decode_error
    (hm : decodeStream s.platform c.entries (s.operands.payloadJob c) s.mem = .error r) :
    exec .decompress s = .next ((s.storeDt c.entries).raiseOpen s.operands r) := by
  rw [exec, execDecompress, checked_ok hp, hc]
  simp only [hm]

theorem exec_decompress_ok (hm : decodeStream s.platform c.entries (s.operands.payloadJob c) s.mem = .ok m) :
    exec .decompress s =
      .next ((((s.storeDt c.entries).storeMem m).storeParsed s.operands c).ended .ok 0 0 c.orig) := by
  rw [exec, execDecompress, checked_ok hp, hc]
  simp only [hm]
  rfl

end

/-- The bytes a DECOMPRESS produces, when they fit, lie outside its payload (R182, R207). -/
theorem payloadJob_apart (h : Apart o) (hseg : 16 + c.segLen ≤ o.srcLen.toNat) (hcap : c.orig ≤ o.dstCap.toNat) :
    (o.payloadJob c).Apart := by
  intro a hlo hhi
  simp only [Operands.payloadJob] at hlo hhi ⊢
  omega

/-- The payload is part of the source range (R182). -/
theorem payloadJob_readable (h : Readable p o.srcAddr.toNat o.srcLen.toNat) (hseg : 16 + c.segLen ≤ o.srcLen.toNat) :
    Readable p (o.payloadJob c).src (o.payloadJob c).srcLen := by
  intro a hlo hhi
  simp only [Operands.payloadJob] at hlo hhi
  exact h a (by omega) (by omega)

/-- The container of sound entries parses into them, whatever its payload; it may list none only with original length 0
(R165, R167). -/
theorem parseContainer_entries {src len : Nat} {orig : Word} (hdt : DtSound dt) (hnil : dt = [] → orig = 0#64)
    (hfit : 16 + (entriesBytes dt).length ≤ len) (hlen : len < 2 ^ 64)
    (hbytes : m.bytes src (16 + (entriesBytes dt).length) =
      header orig (entriesBytes dt).length ++ entriesBytes dt)
    (hr : Readable p src (16 + (entriesBytes dt).length)) :
    parseContainer p m src len = .ok ⟨orig.toNat, (entriesBytes dt).length, dt⟩ := by
  have h := delivers_of_bytes hr hbytes
  rw [parseContainer_of_delivers hfit (by omega) h (fun hb => hnil (entriesBytes_eq_nil.1 hb)),
    parseSegment_entriesBytes hdt (delivers_segment h)]
  rfl

/-- Settles O51: the container parses into its entries, and its payload decodes to their symbols. -/
theorem decompressWritesTheSymbols : Obligations.DecompressWritesTheSymbols := by
  intro s dt es orig hs hd ha hdt hnil hes horig n pa pl hfit hbytes hpayload hcap hr hw
  have hparse := parseContainer_entries hdt hnil hfit s.operands.srcLen.isLt hbytes (hr.take hfit)
  have hbits := hpayload.length_le
  rw [length_payloadStream] at hbits
  have hstream := decodeStream_ok hdt hes
    (payloadJob_apart (c := ⟨orig.toNat, n, dt⟩) ha hfit (horig.trans_le hcap)) horig hcap hpayload
    ((payloadJob_readable hr hfit).take (by simp only [Operands.payloadJob]; omega)) hw
  rw [exec_decompress_ok (precheck_decompress hs hd ha) hparse hstream, State.storeParsed, BitVec.ofNat_toNat,
    BitVec.setWidth_eq]
  exact congrArg (fun k => Host.Outcome.next (State.ended _ _ _ _ k)) horig

end Sys2Proof.Machine
end

section
/-! DECOMPRESS of what COMPRESS made, whole or cut (46_pipeline_control.md R186). -/

namespace Sys2Proof.Machine

variable {p : Platform} {m : Memory} {s t u : State} {codes : Table Bits} {x : List Byte} {dt es : List DtEntry}
  {S : Bits} {a n k : Nat}

/-! ### The payload -/

/-- The bytes a packed bit string begins with hold the bits it begins with (R64, R90). -/
theorem take_prefix_payloadStream (h : m.bytes a n = (pack S).take n) : S.take (8 * n) <+: payloadStream m a n := by
  have hread : ∀ i < n, m.read (a + i) = (pack S).getD i 0#8 := fun i hi => by
    have hbyte := congrArg (·.getD i 0#8) h
    simpa [Memory.bytes, List.getD_eq_getElem?_getD, List.getElem?_take, hi] using hbyte
  rw [List.prefix_iff_getElem]
  refine ⟨by simp, fun k hk => ?_⟩
  rw [List.length_take] at hk
  have hbit := (payloadIsPackedMsbFirst S).2 k
  rw [List.getD_eq_getElem S false (by omega)] at hbit
  simp only [payloadStream, List.getElem_take, List.getElem_map, List.getElem_range]
  rw [hread _ (by omega), streamBit, hbit]

/-- The bits of a sequence of entries, cut: the codes of the entries before the cut, and a proper beginning of the next
one's code. -/
theorem take_flatMap_code (h : k < (es.flatMap DtEntry.code).length) :
    ∃ (es₁ es₂ : List DtEntry) (e : DtEntry) (tail : Bits), es = es₁ ++ e :: es₂ ∧
      (es.flatMap DtEntry.code).take k = es₁.flatMap DtEntry.code ++ tail ∧ tail <+: e.code ∧
      tail.length < e.code.length := by
  induction es generalizing k with
  | nil => cases h
  | cons e es ih =>
    rw [List.flatMap_cons] at h ⊢
    obtain hk | hk := Nat.lt_or_ge k e.code.length
    · refine ⟨[], es, e, e.code.take k, rfl, ?_, List.take_prefix _ _, by rw [List.length_take]; omega⟩
      rw [List.take_append_of_le_length hk.le]
      rfl
    · rw [List.length_append] at h
      obtain ⟨es₁, es₂, d, tail, hes, hbits, htail⟩ := ih (k := k - e.code.length) (by omega)
      refine ⟨e :: es₁, es₂, d, tail, congrArg _ hes, ?_, htail⟩
      rw [List.take_append, List.take_of_length_le hk, hbits, List.flatMap_cons, List.append_assoc]

/-- A proper beginning of an entry's code begins with no code (R155). -/
theorem DtSound.not_prefix_of_cut (h : DtSound dt) {e : DtEntry} {tail : Bits} (he : e ∈ dt) (hp : tail <+: e.code)
    (hlt : tail.length < e.code.length) : ∀ d ∈ dt, ¬ d.code <+: tail := fun d hd hpre => by
  obtain rfl := h.eq_of_prefix hd he (hpre.trans hp)
  have := hpre.length_le
  omega

/-! ### The entries of a source -/

/-- The entries of a source's bytes under a code table, in order. -/
def sourceEntries (codes : Table Bits) (x : List Byte) : List DtEntry := x.map fun b => ⟨b, codes.at b⟩

theorem sourceEntries_syms (codes : Table Bits) (x : List Byte) : (sourceEntries codes x).map DtEntry.sym = x := by
  rw [sourceEntries, List.map_map]
  exact List.map_id _

theorem sourceEntries_codes (codes : Table Bits) (x : List Byte) :
    (sourceEntries codes x).flatMap DtEntry.code = codedStream codes x := List.flatMap_map ..

theorem sourceEntries_subset (h : ∀ b ∈ x, codes.at b ≠ []) :
    ∀ e ∈ sourceEntries codes x, e ∈ codedEntries codes :=
  List.forall_mem_map.2 fun b hb =>
    List.mem_map.2 ⟨b, List.mem_filter.2 ⟨mem_allBytes b, bne_iff_ne.2 (h b hb)⟩, rfl⟩

/-- The decoding table that a container's segment gives is sound (R133, R172). -/
theorem dtSound_countCodes {freq : Table Word} (h : 1 ≤ distinctSyms freq) :
    DtSound (codedEntries (countCodes freq)) := by
  obtain ⟨-, -, hlen, hprefix, -, -⟩ := codeTableLaws freq h
  exact dtSound_codedEntries hlen hprefix

/-! ### The container -/

/-- What the container of the source of `s` holds (R85, R181). -/
def State.contents (s : State) : Container :=
  { orig := s.operands.srcLen.toNat, segLen := (segBytes s.sourceCodes).length, entries := codedEntries s.sourceCodes }

theorem State.contents_segLen (s : State) : s.contents.segLen = (segBytes s.sourceCodes).length := by
  rw [State.contents]

theorem State.contents_entries (s : State) : s.contents.entries = codedEntries s.sourceCodes := by
  rw [State.contents]

theorem State.contents_orig (s : State) : s.contents.orig = s.operands.srcLen.toNat := by
  rw [State.contents]

/-- The entries of the source of `s`: those whose codes its container's payload holds (R181). -/
abbrev State.entries (s : State) : List DtEntry := sourceEntries s.sourceCodes s.source

theorem State.length_entries (s : State) : s.entries.length = s.contents.orig := by
  rw [State.entries, sourceEntries, List.length_map, length_source, State.contents_orig]

theorem State.entries_subset_contents (s : State) :
    ∀ e ∈ s.entries, e ∈ s.contents.entries := by
  rw [State.contents_entries]
  exact sourceEntries_subset fun _ => countCodes_at_ne_nil (length_source_lt s)

/-- A container is its header, its segment and its payload (R85, R86). -/
theorem State.length_container (s : State) :
    s.container.length = 16 + s.contents.segLen + ((s.entries.flatMap DtEntry.code).length + 7) / 8 := by
  rw [sourceEntries_codes, State.contents_segLen]
  exact length_containerBytes ..

/-- The container in memory behind a COMPRESS that ended OK, and the registers that tell its lengths (R86, R181). -/
structure Compressed (s t : State) : Prop where
  nonempty  : s.source ≠ []
  resultLen : t.res.resultLen.toNat = s.container.length
  segLen    : t.res.tableSegLen.toNat = s.contents.segLen
  bytes     : t.mem.bytes s.operands.dstAddr.toNat s.container.length = s.container

theorem exec_compress_ok_compressed (hm : s.mem.wf) (h : exec .compress s = .next t) (hok : t.code = .ok) :
    Compressed s t := by
  obtain ⟨-, hd, hne, -, hcap, ht⟩ := exec_compress_ok_cases h hok
  have hlt := s.operands.dstCap.isLt
  have hlength := s.length_container
  have hresult : t.res.resultLen = BitVec.ofNat 64 s.container.length := congrArg (·.res.resultLen) ht
  have htable : t.res.tableSegLen = BitVec.ofNat 64 s.contents.segLen := by
    rw [State.contents_segLen]
    exact congrArg (·.res.tableSegLen) ht
  have hmem : t.mem = s.mem.writeAll s.operands.dstAddr.toNat s.container := by
    rw [ht, ← State.complete_eq_ended, State.complete_mem, State.storeCompressed_mem]
  refine ⟨hne, ?_, ?_, ?_⟩
  · rw [hresult, BitVec.toNat_ofNat, Nat.mod_eq_of_lt (by omega)]
  · rw [htable, BitVec.toNat_ofNat, Nat.mod_eq_of_lt (by omega)]
  · rw [hmem, Memory.bytes_writeAll hm (by simp only [Config.addrSpace]; omega)]

section
variable (h : Compressed s t)
include h

theorem Compressed.dtSound : DtSound s.contents.entries := by
  rw [State.contents_entries]
  exact dtSound_countCodes (distinctSyms_countBytes_pos (length_source_lt s) h.nonempty)

/-- The segment lists the symbols of the source, of which there is at least one. -/
theorem Compressed.contents_ne_nil : s.contents.entries ≠ [] := by
  obtain ⟨b, hb⟩ := List.exists_mem_of_ne_nil _ h.nonempty
  exact List.ne_nil_of_mem (s.entries_subset_contents _ (List.mem_map_of_mem hb))

/-- The bytes of another state's source range that are a beginning of the container. -/
theorem Compressed.beginning (hk : k ≤ s.container.length)
    (hu : u.source = t.mem.bytes s.operands.dstAddr.toNat k) : u.source = s.container.take k := by
  obtain ⟨n, hn⟩ := Nat.exists_eq_add_of_le hk
  rw [hu, ← h.bytes, hn, Memory.take_bytes]

end

section
variable (hu : u.source = s.container.take u.operands.srcLen.toNat)
include hu

/-- Where the source range holds a beginning of the container, a part from its start holds one too. -/
theorem bytes_of_beginning (hn : n ≤ u.operands.srcLen.toNat) :
    u.mem.bytes u.operands.srcAddr.toNat n = s.container.take n := by
  obtain ⟨k, hk⟩ := Nat.exists_eq_add_of_le hn
  rw [State.source, hk] at hu
  rw [← Memory.take_bytes _ _ n k, hu, List.take_take, Nat.min_eq_left (Nat.le_add_right n k)]

/-- The header's segment length, where the header is whole (R85). -/
theorem segLenAt_of_beginning (hlen : 16 ≤ u.operands.srcLen.toNat) (hlt : s.contents.segLen < 2 ^ 64) :
    segLenAt u.mem u.operands.srcAddr.toNat = s.contents.segLen := by
  have hhead : u.mem.bytes u.operands.srcAddr.toNat 16 = header s.operands.srcLen s.contents.segLen := by
    rw [bytes_of_beginning hu hlen, State.container, containerBytes, List.append_assoc,
      List.take_left' (length_header _ _), State.contents_segLen]
  rw [segLenAt, ← Memory.drop_bytes u.mem _ 8 8, hhead, header, List.drop_left' (length_le64 _), u64le_le64,
    BitVec.toNat_ofNat, Nat.mod_eq_of_lt hlt]

variable (hseg : 16 + s.contents.segLen ≤ u.operands.srcLen.toNat)
include hseg

/-- Where header and segment are whole, the container parses, whatever there is of its payload. -/
theorem parseContainer_of_beginning (hc : Compressed s t)
    (hr : Readable u.platform u.operands.srcAddr.toNat u.operands.srcLen.toNat) :
    parseContainer u.platform u.mem u.operands.srcAddr.toNat u.operands.srcLen.toNat = .ok s.contents := by
  have hbytes : u.mem.bytes u.operands.srcAddr.toNat (16 + s.contents.segLen) =
      header s.operands.srcLen s.contents.segLen ++ entriesBytes s.contents.entries := by
    rw [bytes_of_beginning hu hseg, State.container, containerBytes, List.take_left' (by simp [State.contents_segLen]),
      State.contents_segLen, segBytes_eq_entriesBytes, State.contents_entries]
  have hlen : s.contents.segLen = (entriesBytes s.contents.entries).length := by
    rw [State.contents_segLen, segBytes_eq_entriesBytes, State.contents_entries]
  rw [hlen] at hbytes hseg
  rw [parseContainer_entries hc.dtSound (fun hnil => absurd hnil hc.contents_ne_nil) hseg u.operands.srcLen.isLt hbytes
    (hr.take hseg), ← hlen, ← State.contents_orig]

/-- Behind them the source range holds a beginning of the payload. -/
theorem payload_of_beginning :
    (s.entries.flatMap DtEntry.code).take (8 * (u.operands.payloadJob s.contents).srcLen) <+:
      payloadStream u.mem (u.operands.payloadJob s.contents).src (u.operands.payloadJob s.contents).srcLen := by
  obtain ⟨k, hk⟩ := Nat.exists_eq_add_of_le hseg
  rw [State.source, hk] at hu
  simp only [Operands.payloadJob]
  rw [sourceEntries_codes, hk, Nat.sub_sub, Nat.add_sub_cancel_left, Nat.add_assoc u.operands.srcAddr.toNat]
  refine take_prefix_payloadStream ?_
  rw [← Memory.drop_bytes, hu, State.container, containerBytes, List.drop_take,
    List.drop_left' (by simp [State.contents_segLen]), Nat.add_sub_cancel_left]

end

/-- Settles O53: the container's segment lists the codes of the source, and its payload is their sequence. -/
theorem decompressOfCompressIsTheSource : Obligations.DecompressOfCompressIsTheSource := by
  intro s t u hm h hok hmu hs hd ha hlen hbytes hcap hr hw
  have hc := exec_compress_ok_compressed hm h hok
  have hwhole : u.operands.srcLen.toNat = s.container.length := by rw [hlen, hc.resultLen]
  have hu := hc.beginning (k := u.operands.srcLen.toNat) hwhole.le (by rw [hbytes, hlen])
  have hlength := s.length_container
  have hseg : 16 + s.contents.segLen ≤ u.operands.srcLen.toNat := by omega
  have hpl : (u.operands.payloadJob s.contents).srcLen =
      ((s.entries.flatMap DtEntry.code).length + 7) / 8 := by
    simp only [Operands.payloadJob]
    omega
  have hpayload := payload_of_beginning hu hseg
  rw [List.take_of_length_le (by rw [hpl]; omega)] at hpayload
  have horig := s.length_entries.symm
  have hdecode := decodeStream_ok hc.dtSound s.entries_subset_contents (payloadJob_apart ha hseg hcap) horig
    (horig ▸ hcap) hpayload (hpl ▸ payloadJob_readable hr hseg) (horig ▸ hw)
  rw [sourceEntries_syms] at hdecode
  have hparse := parseContainer_of_beginning hu hseg hc hr
  refine ⟨_, exec_decompress_ok (precheck_decompress hs hd ha) hparse hdecode, rfl, ?resultLen, ?output⟩
  case resultLen =>
    change BitVec.ofNat 64 s.operands.srcLen.toNat = s.operands.srcLen
    rw [BitVec.ofNat_toNat, BitVec.setWidth_eq]
  case output =>
    change (u.mem.writeAll u.operands.dstAddr.toNat s.source).bytes u.operands.dstAddr.toNat s.operands.srcLen.toNat =
      s.source
    rw [← length_source, Memory.bytes_writeAll hmu]
    rw [length_source]
    exact (Nat.add_le_add_left hcap _).trans hd.2

/-- A payload that is cut is exhausted: behind the codes of the symbols before the cut, the bits left are a proper
beginning of a code (R151, R186). -/
theorem decodeStream_cut {j : DecodeJob} (hdt : DtSound dt) (hes : ∀ e ∈ es, e ∈ dt) (ha : j.Apart)
    (horig : j.orig = es.length) (hcap : j.orig ≤ j.cap) (hr : Readable p j.src j.srcLen)
    (hw : Writable p j.dst es.length) (hcut : 8 * j.srcLen < (es.flatMap DtEntry.code).length)
    (hb : (es.flatMap DtEntry.code).take (8 * j.srcLen) <+: payloadStream m j.src j.srcLen) :
    decodeStream p dt j m = .error ⟨.malformedStream, j.src + j.srcLen, 8 * j.srcLen⟩ := by
  have hpayload := hb.eq_of_length (by rw [List.length_take, length_payloadStream, Nat.min_eq_left hcut.le])
  obtain ⟨es₁, es₂, e, tail, rfl, hbits, hprefix, hlt⟩ := take_flatMap_code hcut
  obtain ⟨hes₁, hes₂⟩ := List.forall_mem_append.1 hes
  have he := (List.forall_mem_cons.1 hes₂).1
  rw [List.length_append, List.length_cons] at horig hw
  exact decodeStream_exhausted hdt hes₁ ha (by omega) hcap hr (hw.mono (Nat.le_refl _) (by omega))
    (hbits.symm.trans hpayload) (hdt.not_prefix_of_cut he hprefix hlt) (hlt.trans_le (length_le_longestCode he))

/-- Settles O54: the header's checks find a cut header or segment; a cut payload is exhausted. -/
theorem truncatedContainersNeverDecompress : Obligations.TruncatedContainersNeverDecompress := by
  intro s t u hm h hok hs hd ha hlen hbytes hcap hr hw
  have hc := exec_compress_ok_compressed hm h hok
  have hp := precheck_decompress hs hd ha
  rw [hc.resultLen] at hlen
  have hu := hc.beginning hlen.le hbytes
  rw [hc.segLen]
  split
  case isTrue hcut =>
    obtain hshort | hhead := Nat.lt_or_ge u.operands.srcLen.toNat 16
    · exact ⟨_, exec_decompress_parse_error hp (parseContainer_short hshort), rfl, rfl⟩
    · have hparse := parseContainer_header hhead (portReadBytes_ok (m := u.mem) (hr.take hhead))
      rw [segLenAt_of_beginning hu hhead (hc.segLen ▸ t.res.tableSegLen.isLt), if_pos (by omega)] at hparse
      exact ⟨_, exec_decompress_parse_error hp hparse, rfl, rfl⟩
  case isFalse hwhole =>
    have hseg := Nat.le_of_not_lt hwhole
    have horig := s.length_entries.symm
    have hcut : 8 * (u.operands.payloadJob s.contents).srcLen <
        (s.entries.flatMap DtEntry.code).length := by
      have := s.length_container
      simp only [Operands.payloadJob]
      omega
    have hdecode := decodeStream_cut hc.dtSound s.entries_subset_contents (payloadJob_apart ha hseg hcap) horig hcap
      (payloadJob_readable hr hseg) (horig ▸ hw) hcut (payload_of_beginning hu hseg)
    refine ⟨_, exec_decompress_decode_error hp (parseContainer_of_beginning hu hseg hc hr) hdecode,
      congrArg (BitVec.ofNat 64) ?_, rfl⟩
    simp only [Operands.payloadJob]
    omega

end Sys2Proof.Machine
end

section
/-! COMPRESS and DECOMPRESS as sequences of their stages (46_pipeline_control.md R185). -/

namespace Sys2Proof.Machine

variable {p : Platform} {m m' : Memory} {s s1 s2 s3 t u : State} {o : Operands} {c : Container} {dt : List DtEntry}
  {j : DecodeJob} {bits S : Bits}

/-! ### What the stages write -/

theorem portRead_cases {a : Nat} {b : Byte} (h : portRead p m a = .ok b) : b = m.read a := by
  unfold portRead at h
  split at h <;> simp_all

/-- A copy that completes, between ranges that do not overlap, wrote the source's bytes (R161). -/
theorem portCopy_cases {src dst n : Nat} (h : portCopy p m src dst n = .ok m')
    (hd : n = 0 ∨ dst + n ≤ src ∨ src + n ≤ dst) : m' = m.writeAll dst (m.bytes src n) := by
  induction n generalizing src dst m with
  | zero =>
    cases h
    rfl
  | succ n ih =>
    simp only [portCopy] at h
    split at h
    · cases h
    · obtain rfl := portRead_cases ‹_›
      split at h
      · cases h
      · obtain rfl := portWrite_cases ‹_›
        have hkeep : (m.write dst (m.read src)).bytes (src + 1) n = m.bytes (src + 1) n :=
          Memory.bytes_congr fun i hi => Memory.read_write_other _ _ (by omega)
        rw [ih h (by omega), hkeep, Memory.bytes_succ, Memory.writeAll_cons]

/-- A SERIALIZE rule that gives a memory has written the header, the segment and the source bytes (R161). -/
theorem serializeRange_cases (ha : Apart o) (h : serializeRange s o = .ok m) :
    m = s.mem.writeAll o.dstAddr.toNat (header o.origLen (segBytes s.tables.codes).length ++ segBytes s.tables.codes ++
      s.mem.bytes o.srcAddr.toNat o.srcLen.toNat) := by
  have hcap := (serializeRange_frame h).1
  rw [serializeRange, if_neg (Nat.not_lt.2 hcap)] at h
  unfold serializedLen at hcap
  split at h
  · cases h
  · have hhead := portWriteBytes_cases ‹_›
    split at h
    · cases h
    · have hseg := portWriteBytes_cases ‹portWriteBytes _ _ (_ + 16) _ = _›
      rw [portCopy_cases h (by omega), hseg, hhead, Memory.writeAll_append, Memory.writeAll_append, List.length_append,
        length_header, Nat.add_assoc]
      congr 1
      refine Memory.bytes_congr fun i hi => ?_
      rw [Memory.read_writeAll_outside _ _ _ (by omega),
        Memory.read_writeAll_outside _ _ _ (by rw [length_header]; omega)]

/-- An ENCODE rule that gives an output has written the packed bits that its loop gives (R141). -/
theorem encodeRange_cases (h : encodeRange s o = .ok (bits, m)) :
    encodeLoop s.platform s.mem s.tables.codes o.srcAddr.toNat o.srcLen.toNat = .ok bits ∧
      m = s.mem.writeAll o.dstAddr.toNat (pack bits) := by
  unfold encodeRange at h
  split at h
  · cases h
  · split at h
    · cases h
    · split at h <;> cases h
      exact ⟨‹_›, portWriteBytes_cases ‹_›⟩

/-- An ENCODE that ends OK, of a source whose bytes are readable and have codes, has written their packed codes, which
fit (R141). -/
theorem exec_encode_ok_cases (h : exec .encode s = .next t) (hok : t.code = .ok)
    (hr : Readable s.platform s.operands.srcAddr.toNat s.operands.srcLen.toNat)
    (hcoded : ∀ b ∈ s.source, s.tables.codes.at b ≠ []) (hS : codedStream s.tables.codes s.source = S) :
    DstOk s.operands ∧ ceilDiv S.length 8 ≤ s.operands.dstCap.toNat ∧
      t = (s.storeEncoded s.operands S.length (s.mem.writeAll s.operands.dstAddr.toNat (pack S))).complete .ok 0 0
        (ceilDiv S.length 8) := by
  obtain ⟨e, hp, rfl⟩ | ⟨hp, ⟨bits, m, hm, rfl⟩ | ⟨e, hm, rfl⟩⟩ := execEncode_cases h
  · exact absurd hok (precheck_not_ok hp)
  · obtain ⟨-, hd, -, -⟩ := precheck_eq_none.1 hp
    obtain ⟨hbits, hmem⟩ := encodeRange_cases hm
    obtain rfl : S = bits := Except.ok.inj ((hS ▸ encodeLoop_ok hr hcoded).symm.trans hbits)
    exact ⟨hd rfl, (encodeRange_frame hm).1, by rw [hmem]⟩
  · exact absurd hok (not_success_of_mem_ruleCodes (encodeRange_code hm)).1

/-- A SERIALIZE that ends OK has written the header, the segment and its source, which fit (R161). -/
theorem exec_serialize_ok_cases (h : exec .serialize s = .next t) (hok : t.code = .ok) :
    DstOk s.operands ∧ serializedLen s s.operands ≤ s.operands.dstCap.toNat ∧
      t = (s.storeSerialized (s.mem.writeAll s.operands.dstAddr.toNat
        (header s.operands.origLen (segBytes s.tables.codes).length ++ segBytes s.tables.codes ++ s.source))).complete
          .ok 0 0 (serializedLen s s.operands) := by
  obtain ⟨e, hp, rfl⟩ | ⟨hp, ⟨m, hm, rfl⟩ | ⟨e, hm, rfl⟩⟩ := execSerialize_cases h
  · exact absurd hok (precheck_not_ok hp)
  · obtain ⟨-, hd, ha, -⟩ := precheck_eq_none.1 hp
    exact ⟨hd rfl, (serializeRange_frame hm).1, by rw [serializeRange_cases (ha rfl rfl) hm, State.source]⟩
  · exact absurd hok (not_success_of_mem_ruleCodes (serializeRange_code hm)).1

/-! ### COMPRESS and its stages -/

/-- `u` is `s` after COUNT, BUILD_TREE and BUILD_TABLE of its source. -/
structure BuiltFrom (s u : State) : Prop where
  tables   : u.tables = (s.built s.source).tables
  mem      : u.mem = s.mem
  platform : u.platform = s.platform
  cfg      : u.cfg = s.operands
  engine   : u.engine = none

theorem builtFrom_stages (he : s.engine = none) (hs : SrcOk s.operands)
    (hr : Readable s.platform s.operands.srcAddr.toNat s.operands.srcLen.toNat) (hne : s.source ≠ [])
    (h1 : exec .count s = .next s1) (h2 : exec .buildTree s1 = .next s2) (h3 : exec .buildTable s2 = .next s3) :
    BuiltFrom s s3 := by
  have hseeds : seeds (countBytes s.source) ≠ [] := seeds_countBytes_ne_nil (length_source_lt s) hne
  obtain rfl := Host.Outcome.next.inj ((exec_count_ok hs (portReadBytes_ok hr)).symm.trans h1)
  obtain rfl := Host.Outcome.next.inj ((exec_buildTree_ok rfl hseeds).symm.trans h2)
  obtain rfl := Host.Outcome.next.inj ((exec_buildTable_ok rfl).symm.trans h3)
  exact ⟨rfl, rfl, rfl, (s.operands_idle he).symm, rfl⟩

/-- `u` holds at `buf` the packed codes of the source of `s`, with the tables and lengths that belong to them. -/
structure EncodedFrom (s u : State) (buf : Word) : Prop where
  tables  : u.tables = (s.built s.source).tables
  wf      : u.mem.wf
  payload : u.mem.bytes buf.toNat u.res.resultLen.toNat = pack (codedStream s.sourceCodes s.source)
  origLen : u.cfg.origLen = s.operands.srcLen
  engine  : u.engine = none

/-- `s` with the host's values in the configuration registers. -/
def State.withCfg (s : State) (cfg : Operands) : State := { s with cfg := cfg }

theorem withCfg_operands (he : s.engine = none) (o : Operands) : (s.withCfg o).operands = o :=
  State.operands_idle _ he

theorem withCfg_source (he : s.engine = none) (o : Operands) :
    (s.withCfg o).source = s.mem.bytes o.srcAddr.toNat o.srcLen.toNat := by
  rw [State.source, withCfg_operands he]
  rfl

/-- ENCODE into the buffer at `buf`, behind the first three stages. -/
theorem encodedFrom_stage {buf cap : Word} (hm : s.mem.wf)
    (hr : Readable s.platform s.operands.srcAddr.toNat s.operands.srcLen.toNat) (hb : BuiltFrom s s3)
    (h : exec .encode (s3.withCfg { s3.cfg with dstAddr := buf, dstCap := cap }) = .next u) (hok : u.code = .ok) :
    EncodedFrom s u buf := by
  obtain ⟨htables, hmem, hplatform, hcfg, hengine⟩ := hb
  rw [hcfg] at h
  have ho := withCfg_operands hengine { s.operands with dstAddr := buf, dstCap := cap }
  have hsource : (s3.withCfg { s.operands with dstAddr := buf, dstCap := cap }).source = s.source := by
    rw [withCfg_source hengine, hmem]
    rfl
  have hcodes : (s3.withCfg { s.operands with dstAddr := buf, dstCap := cap }).tables.codes = s.sourceCodes :=
    congrArg Tables.codes htables
  obtain ⟨hd, hcap, hu⟩ := exec_encode_ok_cases h hok (S := codedStream s.sourceCodes s.source)
    (by rw [ho]; exact hplatform ▸ hr)
    (by rw [hsource, hcodes]; exact fun _ => countCodes_at_ne_nil (length_source_lt s)) (by rw [hsource, hcodes])
  rw [ho] at hd hcap hu
  have hmem' : u.mem = s.mem.writeAll buf.toNat (pack (codedStream s.sourceCodes s.source)) := by
    rw [hu, State.complete_mem, State.storeEncoded_mem, ← hmem]
    rfl
  have hlen : u.res.resultLen.toNat = (pack (codedStream s.sourceCodes s.source)).length := by
    rw [hu, length_pack]
    exact Nat.mod_eq_of_lt (hcap.trans_lt cap.isLt)
  have hfits : buf.toNat + (pack (codedStream s.sourceCodes s.source)).length ≤ Config.addrSpace := by
    rw [length_pack]
    exact (Nat.add_le_add_left hcap _).trans hd.2
  refine ⟨?tables, hmem' ▸ Memory.writeAll_wf hm hfits, ?payload, hu ▸ rfl, hu ▸ rfl⟩
  case tables =>
    rw [hu, State.complete_tables, State.storeEncoded_tables]
    exact htables
  case payload => rw [hmem', hlen, Memory.bytes_writeAll hm hfits]

/-- SERIALIZE from the buffer to the destination of `s` writes the container (R161, R185 (a)). -/
theorem serialized_stage {buf : Word} (he : EncodedFrom s u buf)
    (h : exec .serialize (u.withCfg { u.cfg with
      srcAddr := buf, srcLen := u.res.resultLen, dstAddr := s.operands.dstAddr, dstCap := s.operands.dstCap }) =
        .next t)
    (hok : t.code = .ok) :
    t.tables = (s.built s.source).tables ∧ t.res.resultLen = BitVec.ofNat 64 s.container.length ∧
      t.mem.bytes s.operands.dstAddr.toNat s.container.length = s.container := by
  obtain ⟨htables, hwf, hpayload, horig, hengine⟩ := he
  obtain ⟨hd, hcap, ht⟩ := exec_serialize_ok_cases h hok
  rw [withCfg_source hengine, hpayload] at ht
  rw [withCfg_operands hengine] at hd hcap ht
  have hcodes : u.tables.codes = s.sourceCodes := congrArg Tables.codes htables
  have hbytes : header u.cfg.origLen (segBytes u.tables.codes).length ++ segBytes u.tables.codes ++
      pack (codedStream s.sourceCodes s.source) = s.container := by
    rw [horig, hcodes, State.container, containerBytes]
  have hlen : 16 + (segBytes u.tables.codes).length + u.res.resultLen.toNat = s.container.length := by
    have hpack := congrArg List.length hpayload
    rw [Memory.length_bytes] at hpack
    rw [← hbytes, List.length_append, List.length_append, length_header, hpack]
  have hmem : t.mem = u.mem.writeAll s.operands.dstAddr.toNat s.container := by
    rw [ht, State.complete_mem, State.storeSerialized_mem, ← hbytes]
    rfl
  refine ⟨?tables, ?resultLen, ?bytes⟩
  case tables =>
    rw [ht, State.complete_tables, State.storeSerialized_tables]
    exact htables
  case resultLen =>
    rw [ht, ← hlen]
    rfl
  case bytes =>
    refine hmem ▸ Memory.bytes_writeAll hwf ?_
    rw [← hlen]
    exact (Nat.add_le_add_left hcap _).trans hd.2

/-- COMPRESS leaves the tables and the container that its stages leave (R185 (a)). -/
theorem compress_eq_stages {s4 s5 : State} {buf cap : Word} (hm : s.mem.wf) (he : s.engine = none)
    (h : exec .compress s = .next t) (hok : t.code = .ok)
    (h1 : exec .count s = .next s1) (h2 : exec .buildTree s1 = .next s2) (h3 : exec .buildTable s2 = .next s3)
    (h4 : exec .encode (s3.withCfg { s3.cfg with dstAddr := buf, dstCap := cap }) = .next s4) (hok4 : s4.code = .ok)
    (h5 : exec .serialize (s4.withCfg { s4.cfg with
      srcAddr := buf, srcLen := s4.res.resultLen, dstAddr := s.operands.dstAddr, dstCap := s.operands.dstCap }) =
        .next s5) (hok5 : s5.code = .ok) :
    s5.res.resultLen = t.res.resultLen ∧ s5.tables = t.tables ∧
      s5.mem.bytes s.operands.dstAddr.toNat t.res.resultLen.toNat =
        t.mem.bytes s.operands.dstAddr.toNat t.res.resultLen.toNat := by
  have hc := exec_compress_ok_compressed hm h hok
  obtain ⟨hs, -, hne, hr, -, ht⟩ := exec_compress_ok_cases h hok
  have hencoded := encodedFrom_stage hm hr (builtFrom_stages he hs hr hne h1 h2 h3) h4 hok4
  obtain ⟨htables, hlen, hbytes⟩ := serialized_stage hencoded h5 hok5
  refine ⟨?_, ?_, ?_⟩
  · rw [hlen, ← hc.resultLen, BitVec.ofNat_toNat, BitVec.setWidth_eq]
  · rw [htables, ht]
    rfl
  · rw [hc.resultLen, hbytes, hc.bytes]

/-! ### The payload as DECODE's operands -/

/-- The operands of the DECODE behind a DESERIALIZE of the container `c`: the payload range and the length that it
reports (R167, R185). -/
def Operands.payloadOperands (o : Operands) (c : Container) : Operands :=
  { o with
    srcAddr := BitVec.ofNat 64 (o.srcAddr.toNat + 16 + c.segLen)
    srcLen := BitVec.ofNat 64 (o.srcLen.toNat - 16 - c.segLen)
    origLen := BitVec.ofNat 64 c.orig }

theorem payloadOperands_srcLen (o : Operands) (c : Container) :
    (o.payloadOperands c).srcLen.toNat = o.srcLen.toNat - 16 - c.segLen :=
  Nat.mod_eq_of_lt (by have := o.srcLen.isLt; omega)

section
variable (hs : SrcOk o) (hseg : 16 + c.segLen ≤ o.srcLen.toNat)
include hs hseg

/-- The payload's address is exact, but where the payload is empty at the top of memory. -/
theorem payloadOperands_srcAddr (hne : o.srcLen.toNat - 16 - c.segLen ≠ 0) :
    (o.payloadOperands c).srcAddr.toNat = o.srcAddr.toNat + 16 + c.segLen :=
  Nat.mod_eq_of_lt (by obtain ⟨-, hend⟩ := hs; omega)

theorem payloadOperands_srcOk : SrcOk (o.payloadOperands c) := by
  have ⟨hmax, hend⟩ := hs
  have hlen := payloadOperands_srcLen o c
  have hlt := (o.payloadOperands c).srcAddr.isLt
  refine ⟨by omega, ?_⟩
  by_cases hne : o.srcLen.toNat - 16 - c.segLen = 0
  · omega
  · have := payloadOperands_srcAddr hs hseg hne
    omega

theorem payloadOperands_apart (ha : Apart o) : Apart (o.payloadOperands c) := by
  have hlen := payloadOperands_srcLen o c
  by_cases hne : o.srcLen.toNat - 16 - c.segLen = 0
  · exact .inl (hlen.trans hne)
  · have haddr := payloadOperands_srcAddr hs hseg hne
    have hdst : (o.payloadOperands c).dstAddr = o.dstAddr ∧ (o.payloadOperands c).dstCap = o.dstCap := ⟨rfl, rfl⟩
    rw [Apart, hlen, haddr, hdst.1, hdst.2]
    omega

end

/-- An empty payload decodes to nothing only (R151). -/
theorem decodeStream_no_payload (hlen : j.srcLen = 0) (h : decodeStream p dt j m = .ok m') : j.orig = 0 := by
  by_contra horig
  have hcap := (decodeStream_frame h).1
  rw [decodeStream, if_neg (by omega), if_neg horig, hlen] at h
  split at h
  · cases h
  · rw [Nat.mul_zero, decodeLoop, if_pos (by omega)] at h
    cases h

/-- DECODE of the payload range that DESERIALIZE reports decodes as stage 2 of DECOMPRESS does (R182, R185). -/
theorem decodeStream_payloadOperands (hs : SrcOk o) (hseg : 16 + c.segLen ≤ o.srcLen.toNat)
    (h : decodeStream p dt (o.payloadJob c) m = .ok m') :
    decodeStream p dt (o.payloadOperands c).decodeJob m = .ok m' := by
  have horig : (o.payloadOperands c).origLen.toNat = c.orig :=
    Nat.mod_eq_of_lt ((decodeStream_frame h).1.trans_lt o.dstCap.isLt)
  by_cases hne : o.srcLen.toNat - 16 - c.segLen = 0
  · have hzero := decodeStream_no_payload (j := o.payloadJob c) hne h
    rw [decodeStream_nothing hzero] at h
    cases h
    exact decodeStream_nothing (horig.trans hzero)
  · have hjob : (o.payloadOperands c).decodeJob = o.payloadJob c := by
      rw [Operands.decodeJob, payloadOperands_srcLen o c, payloadOperands_srcAddr hs hseg hne, horig]
      rfl
    rwa [hjob]

/-- The state from which the DECODE behind a DESERIALIZE of the container `c` runs: that command has completed, and the
host has written the payload range that it reports to the configuration registers (R185). -/
def State.payloadState (s : State) (c : Container) : State :=
  { ((s.storeDt c.entries).storeParsed s.operands c).ended .ok 0 0 0 with
    cfg := { s.cfg with
      srcAddr := (s.operands.payloadOperands c).srcAddr
      srcLen := (s.operands.payloadOperands c).srcLen
      origLen := (s.operands.payloadOperands c).origLen } }

theorem payloadState_operands (he : s.engine = none) :
    (s.payloadState c).operands = s.operands.payloadOperands c := by
  rw [State.operands_idle (s.payloadState c) rfl, State.payloadState, s.operands_idle he]
  rfl

/-- DECODE of the payload that DESERIALIZE reports gives the memory that stage 2 of DECOMPRESS gives (R185 (b)). -/
theorem exec_decode_payload (he : s.engine = none) (hs : SrcOk s.operands) (hd : DstOk s.operands)
    (ha : Apart s.operands) (hseg : 16 + c.segLen ≤ s.operands.srcLen.toNat)
    (hm : decodeStream s.platform c.entries (s.operands.payloadJob c) s.mem = .ok m) :
    exec .decode (s.payloadState c) =
      .next (State.ended { s.payloadState c with mem := m } .ok 0 0 (s.operands.payloadOperands c).origLen.toNat) := by
  have ho := payloadState_operands (c := c) he
  rw [← ho]
  refine exec_decode_ok (precheck_decode ?_ ?_ ?_ rfl) ?_ <;> rw [ho]
  · exact payloadOperands_srcOk hs hseg
  · exact hd
  · exact payloadOperands_apart hs hseg ha
  · exact decodeStream_payloadOperands hs hseg hm

/-- What a DECOMPRESS that ends OK does, DESERIALIZE and DECODE of the payload it reports do, from an idle state
(R185 (b)). -/
theorem decompress_eq_stages (he : s.engine = none) (h : exec .decompress s = .next t) (hok : t.code = .ok) :
    ∃ u v, exec .deserialize s = .next u ∧ u.code = .ok ∧
      exec .decode { u with cfg := { u.cfg with srcAddr := u.res.payloadAddr, srcLen := u.res.payloadLen } } = .next v ∧
      v.code = .ok ∧ v.mem = t.mem ∧ v.res.resultLen = t.res.resultLen := by
  obtain ⟨e, hp, rfl⟩ | ⟨hp, ⟨e, hc, rfl⟩ | ⟨c, hc, ⟨e, hm, rfl⟩ | ⟨m, hm, rfl⟩⟩⟩ := execDecompress_cases h
  · exact absurd hok (precheck_not_ok hp)
  · exact absurd hok (not_success_of_mem_ruleCodes (parseContainer_code hc)).1
  · exact absurd hok (not_success_of_mem_ruleCodes (decodeStream_code hm)).1
  · obtain ⟨hs, hd, ha, -⟩ := precheck_eq_none.1 hp
    have hs := hs rfl
    refine ⟨_, _, exec_deserialize_ok hs hc, rfl,
      exec_decode_payload he hs (hd rfl) (ha rfl rfl) (parseContainer_segLen hc).2 hm, rfl, rfl, ?_⟩
    change BitVec.ofNat 64 (s.operands.payloadOperands c).origLen.toNat = BitVec.ofNat 64 c.orig
    rw [BitVec.ofNat_toNat, BitVec.setWidth_eq, Operands.payloadOperands]

/-- Settles O52: each stage's output is what the pipeline's own stage gives; DECODE's payload address differs only where
the payload is empty. -/
theorem pipelinesEqualTheirStages : Obligations.PipelinesEqualTheirStages := by
  refine ⟨fun s t s1 s2 s3 s4 s5 buf cap hm he _ h hok h1 _ h2 _ h3 _ h4 hok4 h5 hok5 => ?_,
    fun s t he h hok => decompress_eq_stages he h hok⟩
  rw [← s.operands_idle he] at h5 ⊢
  exact compress_eq_stages hm he h hok h1 h2 h3 h4 hok4 h5 hok5

end Sys2Proof.Machine
end

section
/-! The interrupt output and a reset while BUSY (60_exceptions.md R210, R211; 70_reset_and_hazards.md R231). -/

namespace Sys2Proof.Machine

variable {s : State} {c : Latched} {rest : List Input} {a : Nat}

/-! ### The interrupt output -/

theorem irq_iff : s.irq = true ↔ s.done = true ∧ s.irqEn = true := by rw [State.irq, Bool.and_eq_true]

theorem irq_of_not_done (h : s.done = false) : s.irq = false := by rw [State.irq, h, Bool.false_and]

theorem applyReset_irq (s : State) : s.applyReset.irq = false := by
  obtain ⟨m, d, h⟩ := applyReset_eq s
  rw [h]
  rfl

/-- Settles O14: each event's step clears DONE, writes IRQ_EN, or touches neither. -/
theorem interruptFollowsDoneAndEnable : Obligations.InterruptFollowsDoneAndEnable := by
  intro s t rest h
  refine ⟨irq_iff, fun v hin hack => ?_, fun w hin hidle => ?_, fun hin => ?_, fun v hin => ?_, fun hin => ?_⟩
  · cases h.symm.trans (step_busWrite .status hin)
    exact irq_of_not_done (by simp [State.writeReg, hack])
  · cases h.symm.trans (step_busWrite .cmd hin)
    have hissue : State.writeReg { s with inputs := rest } .cmd w = State.issue { s with inputs := rest } w :=
      if_neg (by simpa [State.busy] using hidle)
    exact irq_of_not_done (hissue ▸ rfl)
  · cases h.symm.trans (step_cons hin)
    exact applyReset_irq _
  · cases h.symm.trans (step_busWrite .ctrl hin)
    rfl
  · cases h.symm.trans (step_busRead .status hin)
    rw [hostReadReg_status]
    rfl

/-! ### Reset while BUSY -/

/-- The addresses of a range, modulo 2^64, lie in it. -/
theorem inRange_of_mod {base len : Word} {k : Nat} (hk : k < len.toNat)
    (ha : (base.toNat + k) % Config.addrSpace = a) : inRange base len a = true := by
  simp only [inRange, Config.addrSpace, Bool.or_eq_true, decide_eq_true_eq] at *
  omega

/-- Each address of a range below the top is one of its bytes, modulo 2^64. -/
theorem exists_mod_of_inRange {base len : Word} (ha : a < Config.addrSpace) (h : inRange base len a = true) :
    ∃ k < len.toNat, (base.toNat + k) % Config.addrSpace = a := by
  simp only [inRange, Config.addrSpace, Bool.or_eq_true, decide_eq_true_eq] at *
  obtain ⟨hlo, hhi⟩ | hwrap := h
  · exact ⟨a - base.toNat, by omega, by omega⟩
  · exact ⟨a + 2 ^ 64 - base.toNat, by omega, by omega⟩

/-- Reset while BUSY: the reset state, over the memory the abandoned command leaves. -/
theorem applyReset_busy (h : s.engine = some c) : s.applyReset = (s.abandon c).resetBlock := by
  rw [State.applyReset, h]

theorem abandon_read_outside (h : inRange c.ops.dstAddr c.ops.dstCap a = false) :
    (s.abandon c).mem.read a = s.mem.read a := by
  obtain hsame | ⟨i, -, -, hopen⟩ := abandon_cases s c
  · rw [hsame]
  · rw [hopen]
    exact Memory.read_scramble_outside _ _ _ _ _ (.inr fun k hk ha => by simp [inRange_of_mod hk ha] at h)

/-- A command with a destination range has a source range too, whose bytes are kept. -/
theorem abandon_read_source (h : inRange c.ops.srcAddr c.ops.srcLen a = true) :
    (s.abandon c).mem.read a = s.mem.read a := by
  obtain hsame | ⟨i, hd, hdst, hopen⟩ := abandon_cases s c
  · rw [hsame]
  · have hkeep : c.inSrc a = true := by rw [Latched.inSrc_of_decode hd, usesSrc_of_usesDst hdst, h, Bool.and_self]
    rw [hopen]
    exact Memory.read_scramble_outside _ _ _ _ _ (.inl hkeep)

theorem abandon_read_free {i : Instr} (hm : s.mem.wf) (hd : decode c.word = .ok i) (hdst : usesDst i = true)
    (ha : a < Config.addrSpace) (hin : inRange c.ops.dstAddr c.ops.dstCap a = true)
    (hout : inRange c.ops.srcAddr c.ops.srcLen a = false) : ∃ n, (s.abandon c).mem.read a = Config.freeByte n := by
  have hkeep : c.inSrc a = false := by rw [Latched.inSrc_of_decode hd, hout, Bool.and_false]
  obtain ⟨k, hk, hmod⟩ := exists_mod_of_inRange ha hin
  simp only [State.abandon, hd, hdst, if_true]
  exact Memory.read_scramble_inside hm hk hmod hkeep

/-- Settles O16: the block takes its reset values, and memory is what abandoning the command leaves. -/
theorem resetAbandonsTheCommand : Obligations.ResetAbandonsTheCommand := by
  intro s c rest hm hc hin
  have hstep : step s = .next (State.abandon { s with inputs := rest } c).resetBlock := by
    rw [step_cons hin, act, applyReset_busy (s := { s with inputs := rest }) hc]
  exact ⟨_, hstep, rfl, rfl, rfl, rfl, fun a => abandon_read_outside, fun a => abandon_read_source,
    fun i hd hi a => abandon_read_free hm hd (usesDst_iff.2 hi)⟩

end Sys2Proof.Machine
end

section
/-! The completion codes of each command, and the pre-checks in their order (60_exceptions.md R200, R207). -/

namespace Sys2Proof.Machine

variable {s t : State} {i : Instr} {f : Flags} {o : Operands} {e : Raise}

/-! ### The codes of each command -/

/-- The codes a command can end with once its pre-checks pass (R200). -/
def ruleCodesOf : Instr → List Code
  | .nop | .buildTable | .clear => [.ok]
  | .count => [.ok, .ioError]
  | .buildTree => [.ok, .emptyInput]
  | .encode => [.ok, .ioError, .missingCode, .capacityExceeded]
  | .decode => [.ok, .ioError, .malformedStream, .capacityExceeded]
  | .serialize => [.ok, .ioError, .capacityExceeded]
  | .deserialize => [.ok, .ioError, .truncatedFile, .malformedTable]
  | .compress => [.ok, .emptyInput, .ioError, .missingCode, .capacityExceeded]
  | .decompress => [.ok, .ioError, .truncatedFile, .malformedTable, .malformedStream, .capacityExceeded]

theorem exec_code_of_precheck (hp : precheck i s.flags s.operands = none) (h : exec i s = .next t) :
    t.code ∈ ruleCodesOf i := by
  cases i with
  | nop =>
    obtain rfl := execNop_cases h
    simp [ruleCodesOf]
  | count =>
    obtain ⟨-, ⟨bs, -, rfl⟩ | ⟨e, he, rfl⟩⟩ := (execCount_cases h).resolve_left (by simp [hp])
    · simp [ruleCodesOf]
    · simp [ruleCodesOf, (portReadBytes_fault he).code]
  | buildTree =>
    obtain ⟨-, ⟨-, rfl⟩ | ⟨-, rfl⟩⟩ := (execBuildTree_cases h).resolve_left (by simp [hp]) <;> simp [ruleCodesOf]
  | buildTable =>
    obtain ⟨-, rfl⟩ := (execBuildTable_cases h).resolve_left (by simp [hp])
    simp [ruleCodesOf]
  | encode =>
    obtain ⟨-, ⟨bits, m, -, rfl⟩ | ⟨e, he, rfl⟩⟩ := (execEncode_cases h).resolve_left (by simp [hp])
    · simp [ruleCodesOf]
    · obtain hf | hf | hc | hc := encodeRange_fault he
      · simp [ruleCodesOf, hf.code]
      · simp [ruleCodesOf, hf.code]
      · simp [ruleCodesOf, hc]
      · simp [ruleCodesOf, hc]
  | decode =>
    obtain ⟨-, ⟨m, -, rfl⟩ | ⟨e, he, rfl⟩⟩ := (execDecode_cases h).resolve_left (by simp [hp])
    · simp [ruleCodesOf]
    · obtain hf | hf | hc | hc := decodeStream_fault he
      · simp [ruleCodesOf, hf.code]
      · simp [ruleCodesOf, hf.code]
      · simp [ruleCodesOf, hc]
      · simp [ruleCodesOf, hc]
  | serialize =>
    obtain ⟨-, ⟨m, -, rfl⟩ | ⟨e, he, rfl⟩⟩ := (execSerialize_cases h).resolve_left (by simp [hp])
    · simp [ruleCodesOf]
    · obtain hf | hf | hc := serializeRange_fault he
      · simp [ruleCodesOf, hf.code]
      · simp [ruleCodesOf, hf.code]
      · simp [ruleCodesOf, hc]
  | deserialize =>
    obtain ⟨-, ⟨c, -, rfl⟩ | ⟨e, he, rfl⟩⟩ := (execDeserialize_cases h).resolve_left (by simp [hp])
    · simp [ruleCodesOf]
    · obtain hf | hc | hc := parseContainer_fault he
      · simp [ruleCodesOf, hf.code]
      · simp [ruleCodesOf, hc]
      · simp [ruleCodesOf, hc]
  | compress =>
    obtain ⟨-, ⟨e, he, rfl⟩ | ⟨bs, hbs, ⟨-, rfl⟩ | ⟨-, rfl⟩⟩⟩ := (execCompress_cases h).resolve_left (by simp [hp])
    · simp [ruleCodesOf, (portReadBytes_fault he).code]
    · simp [ruleCodesOf]
    · obtain ⟨m, -, ht⟩ | ⟨e, he, ht⟩ := compressTail_cases ((s.storeCounts bs).storeTree.storeCodes) s.operands
      · simp [ruleCodesOf, ht]
      · obtain hf | hc | hc := writeContainer_fault he (readable_of_portReadBytes hbs)
        · simp [ruleCodesOf, ht, hf.code]
        · simp [ruleCodesOf, ht, hc]
        · simp [ruleCodesOf, ht, hc]
  | decompress =>
    obtain ⟨-, ⟨e, he, rfl⟩ | ⟨c, -, ⟨e, he, rfl⟩ | ⟨m, -, rfl⟩⟩⟩ :=
      (execDecompress_cases h).resolve_left (by simp [hp])
    · obtain hf | hc | hc := parseContainer_fault he
      · simp [ruleCodesOf, hf.code]
      · simp [ruleCodesOf, hc]
      · simp [ruleCodesOf, hc]
    · obtain hf | hf | hc | hc := decodeStream_fault he
      · simp [ruleCodesOf, hf.code]
      · simp [ruleCodesOf, hf.code]
      · simp [ruleCodesOf, hc]
      · simp [ruleCodesOf, hc]
    · simp [ruleCodesOf]
  | clear =>
    obtain rfl := execClear_cases h
    simp [ruleCodesOf]

/-! ### The pre-checks in their order -/

/-- The flag a command needs and does not find, by command (R83, R203). -/
theorem checkFlag_eq_chain (i : Instr) (f : Flags) :
    checkFlag i f =
      if i = .buildTree ∧ f.freqValid = false then some ⟨.sequenceError, 0, 4⟩
      else if i = .buildTable ∧ f.treeValid = false then some ⟨.sequenceError, 0, 5⟩
      else if i ∈ [Instr.encode, .serialize] ∧ f.etableValid = false then some ⟨.sequenceError, 0, 6⟩
      else if i = .decode ∧ f.dtableValid = false then some ⟨.sequenceError, 0, 7⟩
      else none := by
  cases i <;> simp [checkFlag, needsFlag, Flags.bit, ← Bool.not_eq_true]

theorem or_ite_some {α : Type} (p : Prop) [Decidable p] (a : α) (x y : Option α) :
    (if p then some a else x).or y = if p then some a else x.or y := by
  split <;> rfl

/-- The pre-checks are one chain of conditions, tried in the order of R207. -/
theorem precheck_eq_chain (i : Instr) (f : Flags) (o : Operands) :
    precheck i f o =
      if usesSrc i = true ∧ o.srcLen.toNat > 2 ^ 56 - 1 then some ⟨.badArgument, 0, 1⟩
      else if usesSrc i = true ∧ o.srcAddr.toNat + o.srcLen.toNat > 2 ^ 64 then some ⟨.badArgument, 0, 2⟩
      else if usesDst i = true ∧ o.dstCap.toNat > 2 ^ 56 - 1 then some ⟨.badArgument, 0, 3⟩
      else if usesDst i = true ∧ o.dstAddr.toNat + o.dstCap.toNat > 2 ^ 64 then some ⟨.badArgument, 0, 4⟩
      else if usesSrc i = true ∧ usesDst i = true ∧ o.srcLen.toNat > 0 ∧ o.dstCap.toNat > 0 ∧
          o.srcAddr.toNat < o.dstAddr.toNat + o.dstCap.toNat ∧ o.dstAddr.toNat < o.srcAddr.toNat + o.srcLen.toNat then
        some ⟨.badArgument, 0, 5⟩
      else checkFlag i f := by
  unfold precheck checkSrc checkDst checkOverlap
  cases usesSrc i <;> cases usesDst i <;> simp only [or_ite_some, Option.none_or, Bool.false_eq_true, false_and,
    true_and, if_true, if_false, Bool.and_self, Bool.and_false, Bool.false_and, and_false]

theorem checkFlag_code (h : checkFlag i f = some e) :
    e.code = .sequenceError ∧ i ∈ [Instr.buildTree, .buildTable, .encode, .decode, .serialize] := by
  rw [checkFlag_eq_chain] at h
  split_ifs at h with htree htable henc hdec <;> cases h
  · simp [htree.1]
  · simp [htable.1]
  · obtain ⟨hi, -⟩ := henc
    revert hi
    cases i <;> decide
  · simp [hdec.1]

/-- BAD_ARGUMENT comes from a range the command uses, SEQUENCE_ERROR from the flag it needs; a command with a
destination range has a source range too. -/
theorem precheck_code_cases (h : precheck i f o = some e) :
    (e.code = .badArgument ∧ usesSrc i = true) ∨
    (e.code = .sequenceError ∧ i ∈ [Instr.buildTree, .buildTable, .encode, .decode, .serialize]) := by
  rw [precheck_eq_chain] at h
  split_ifs at h with hlen hwrap hcap hdwrap hoverlap
  · cases h
    exact .inl ⟨rfl, hlen.1⟩
  · cases h
    exact .inl ⟨rfl, hwrap.1⟩
  · cases h
    exact .inl ⟨rfl, usesSrc_of_usesDst hcap.1⟩
  · cases h
    exact .inl ⟨rfl, usesSrc_of_usesDst hdwrap.1⟩
  · cases h
    exact .inl ⟨rfl, hoverlap.1⟩
  · exact .inr (checkFlag_code h)

/-! ### The statements -/

/-- Settles O20: a pre-check raises by what the command uses, a rule by its own checks and accesses. -/
theorem eachCommandRaisesItsCodes : Obligations.EachCommandRaisesItsCodes := by
  refine ⟨rfl, fun i s t h => ?_⟩
  obtain ⟨e, he, rfl⟩ | hp := exec_precheck_cases h
  · obtain ⟨hc, hi⟩ | ⟨hc, hi⟩ := precheck_code_cases he
    · simp [hc, usesSrc_iff.1 hi]
    · simp [hc, hi]
  · have hc := exec_code_of_precheck hp h
    generalize t.code = c at hc ⊢
    clear hp h
    revert c
    cases i <;> decide

/-- No rule ends with a pre-check's code (R207). -/
theorem not_precheckCode_of_mem_ruleCodesOf {c : Code} (h : c ∈ ruleCodesOf i) :
    c ≠ .badArgument ∧ c ≠ .sequenceError := by
  revert c
  cases i <;> decide

/-- What the pre-checks' answer makes of the command: the first error completes it with nothing else changed, and
without one it does not end with a pre-check's code (R207). -/
def PrecheckOutcome (i : Instr) (s : State) : Option Raise → Prop
  | some e => exec i s = .next (s.ended e.code e.addr e.info 0)
  | none => ∃ t, exec i s = .next t ∧ t.code ≠ .badArgument ∧ t.code ≠ .sequenceError

theorem exec_precheckOutcome (i : Instr) (s : State) : PrecheckOutcome i s (precheck i s.flags s.operands) := by
  obtain ⟨t, h, -⟩ := exec_completes i s
  obtain ⟨e, he, rfl⟩ | hp := exec_precheck_cases h
  · rw [he]
    exact h
  · rw [hp]
    exact ⟨t, h, not_precheckCode_of_mem_ruleCodesOf (exec_code_of_precheck hp h)⟩

/-- Settles O25: an illegal word is a clause of O3; else the outcome of the pre-checks is read off their chain. -/
theorem prechecksRunInOrder : Obligations.PrechecksRunInOrder := by
  refine ⟨illegalWordsCompleteBadCommand.2, fun i s => ?_⟩
  have h := exec_precheckOutcome i s
  simp only [precheck_eq_chain, checkFlag_eq_chain, apply_ite (PrecheckOutcome i s), usesSrc_iff, usesDst_iff] at h
  exact h

end Sys2Proof.Machine
end
